-- ==== Sys2Proof/Word.lean ====
section
/-! DEFINITION. The word types of the machine (00_scope.md R6, R9, R10): every value the spec calls a
`u4`, `u8`, `u12` or `u16` is a bit vector of that width; addresses used as memory keys are plain naturals. -/

namespace Sys2Proof

/-- A byte of memory, a general register, a timer (`u8`). -/
abbrev Byte := BitVec 8

/-- An instruction word, a stack entry, the 16-bit storage of `pc` and `I` (`u16`). -/
abbrev Word := BitVec 16

/-- A register index, the field `X` or `Y` (`u4`): every value names a register (10_state.md R21). -/
abbrev Reg := BitVec 4

/-- A 12-bit address, the field `NNN` (`u12`). -/
abbrev Addr := BitVec 12

end Sys2Proof
end

