-- ==== Sys2Proof/Syntax.lean ====
section
/-! DEFINITION. The 34 instructions (30_encoding.md R95), one constructor per row of spec/opcode_table.json, with the
operand fields of R91 and R93, and the spec's assembler labels (R100). -/

namespace Sys2Proof

/-- One constructor per row of the opcode table; each docstring gives the row's pattern and the rule of its meaning. -/
inductive Instr where
  /-- `00E0`, R210 -/
  | cls
  /-- `00EE`, R140 -/
  | ret
  /-- `1NNN`, R141 -/
  | jp (nnn : Addr)
  /-- `2NNN`, R142 -/
  | call (nnn : Addr)
  /-- `3XNN`, R144 -/
  | seImm (x : Reg) (nn : Byte)
  /-- `4XNN`, R145 -/
  | sneImm (x : Reg) (nn : Byte)
  /-- `5XY0`, R146 -/
  | seReg (x y : Reg)
  /-- `6XNN`, R160 -/
  | ldImm (x : Reg) (nn : Byte)
  /-- `7XNN`, R161 -/
  | addImm (x : Reg) (nn : Byte)
  /-- `8XY0`, R162 -/
  | ldReg (x y : Reg)
  /-- `8XY1`, R163 -/
  | orReg (x y : Reg)
  /-- `8XY2`, R164 -/
  | andReg (x y : Reg)
  /-- `8XY3`, R165 -/
  | xorReg (x y : Reg)
  /-- `8XY4`, R166 -/
  | addReg (x y : Reg)
  /-- `8XY5`, R167 -/
  | sub (x y : Reg)
  /-- `8XY6`, R168; `y` is encoded and ignored (R99) -/
  | shr (x y : Reg)
  /-- `8XY7`, R169 -/
  | subn (x y : Reg)
  /-- `8XYE`, R170; `y` is encoded and ignored (R99) -/
  | shl (x y : Reg)
  /-- `9XY0`, R147 -/
  | sneReg (x y : Reg)
  /-- `ANNN`, R190 -/
  | ldI (nnn : Addr)
  /-- `BNNN`, R143 -/
  | jpV0 (nnn : Addr)
  /-- `CXNN`, R171 -/
  | rnd (x : Reg) (nn : Byte)
  /-- `DXYN`, R211 -/
  | drw (x y : Reg) (n : BitVec 4)
  /-- `EX9E`, R230 -/
  | skp (x : Reg)
  /-- `EXA1`, R231 -/
  | sknp (x : Reg)
  /-- `FX07`, R233 -/
  | ldVxDt (x : Reg)
  /-- `FX0A`, R232 -/
  | ldVxK (x : Reg)
  /-- `FX15`, R234 -/
  | ldDtVx (x : Reg)
  /-- `FX18`, R235 -/
  | ldStVx (x : Reg)
  /-- `FX1E`, R191 -/
  | addI (x : Reg)
  /-- `FX29`, R192 -/
  | ldF (x : Reg)
  /-- `FX33`, R193 -/
  | ldB (x : Reg)
  /-- `FX55`, R194 -/
  | ldMemVx (x : Reg)
  /-- `FX65`, R195 -/
  | ldVxMem (x : Reg)
  deriving DecidableEq, Repr

/-- One hexadecimal digit, capital letters as in the spec's examples. -/
def hexDigit (d : Nat) : Char :=
  "0123456789ABCDEF".toList.getD d '?'

/-- A register's name, `V0` to `VF` (10_state.md R21). -/
def regName (x : Reg) : String :=
  String.ofList ['V', hexDigit x.toNat]

/-- An 8-bit numeral as the spec's programs write it, `0x3E`. -/
def numeral8 (b : Byte) : String :=
  String.ofList ['0', 'x', hexDigit (b.toNat / 16), hexDigit (b.toNat % 16)]

/-- A 12-bit numeral as the spec's programs write it, `0x20C`. -/
def numeral12 (a : Addr) : String :=
  String.ofList ['0', 'x', hexDigit (a.toNat / 256), hexDigit (a.toNat / 16 % 16), hexDigit (a.toNat % 16)]

/-- The second operand of `SHR` and `SHL`: written only when the ignored field `Y` is not 0 (R100). -/
def ignoredY (y : Reg) : String :=
  if y = 0 then "" else ", " ++ regName y

/-- The assembler spelling of the table of R95. A label of the spec with no standing in the source (R16, R100). -/
def Instr.asm : Instr → String
  | .cls => "CLS"
  | .ret => "RET"
  | .jp nnn => "JP " ++ numeral12 nnn
  | .call nnn => "CALL " ++ numeral12 nnn
  | .seImm x nn => "SE " ++ regName x ++ ", " ++ numeral8 nn
  | .sneImm x nn => "SNE " ++ regName x ++ ", " ++ numeral8 nn
  | .seReg x y => "SE " ++ regName x ++ ", " ++ regName y
  | .ldImm x nn => "LD " ++ regName x ++ ", " ++ numeral8 nn
  | .addImm x nn => "ADD " ++ regName x ++ ", " ++ numeral8 nn
  | .ldReg x y => "LD " ++ regName x ++ ", " ++ regName y
  | .orReg x y => "OR " ++ regName x ++ ", " ++ regName y
  | .andReg x y => "AND " ++ regName x ++ ", " ++ regName y
  | .xorReg x y => "XOR " ++ regName x ++ ", " ++ regName y
  | .addReg x y => "ADD " ++ regName x ++ ", " ++ regName y
  | .sub x y => "SUB " ++ regName x ++ ", " ++ regName y
  | .shr x y => "SHR " ++ regName x ++ ignoredY y
  | .subn x y => "SUBN " ++ regName x ++ ", " ++ regName y
  | .shl x y => "SHL " ++ regName x ++ ignoredY y
  | .sneReg x y => "SNE " ++ regName x ++ ", " ++ regName y
  | .ldI nnn => "LD I, " ++ numeral12 nnn
  | .jpV0 nnn => "JP V0, " ++ numeral12 nnn
  | .rnd x nn => "RND " ++ regName x ++ ", " ++ numeral8 nn
  | .drw x y n => "DRW " ++ regName x ++ ", " ++ regName y ++ ", " ++ toString n.toNat
  | .skp x => "SKP " ++ regName x
  | .sknp x => "SKNP " ++ regName x
  | .ldVxDt x => "LD " ++ regName x ++ ", DT"
  | .ldVxK x => "LD " ++ regName x ++ ", K"
  | .ldDtVx x => "LD DT, " ++ regName x
  | .ldStVx x => "LD ST, " ++ regName x
  | .addI x => "ADD I, " ++ regName x
  | .ldF x => "LD F, " ++ regName x
  | .ldB x => "LD B, " ++ regName x
  | .ldMemVx x => "LD [I], " ++ regName x
  | .ldVxMem x => "LD " ++ regName x ++ ", [I]"

end Sys2Proof
end

