-- ==== Sys2Proof/WellFormed.lean ====
section
/-! DEFINITION. Well-formedness. An operand's range is carried by its type (R21: "every index value 0..15 names a
register and no index is invalid"; R93: every field is an unsigned run of bits of the word), so every term of `Instr` is
well formed; what can be ill formed is a WORD. `knownWord` is the opcode map of 30_encoding.md R95 read as data, written
independently of the decoder: a word is known when it matches a row, and any other word is unknown (R96). -/

namespace Sys2Proof

/-- One row of the opcode map: the word `w` is the instruction when `w AND mask = bits` (R94). -/
structure OpRow where
  mask : Word
  bits : Word
  deriving DecidableEq, Repr

/-- The 34 rows of R95 in the table's order. -/
def opcodeRows : List OpRow :=
  [ ⟨0xFFFF, 0x00E0⟩, ⟨0xFFFF, 0x00EE⟩, ⟨0xF000, 0x1000⟩, ⟨0xF000, 0x2000⟩, ⟨0xF000, 0x3000⟩,
    ⟨0xF000, 0x4000⟩, ⟨0xF00F, 0x5000⟩, ⟨0xF000, 0x6000⟩, ⟨0xF000, 0x7000⟩ ] ++
  [ ⟨0xF00F, 0x8000⟩, ⟨0xF00F, 0x8001⟩, ⟨0xF00F, 0x8002⟩, ⟨0xF00F, 0x8003⟩, ⟨0xF00F, 0x8004⟩,
    ⟨0xF00F, 0x8005⟩, ⟨0xF00F, 0x8006⟩, ⟨0xF00F, 0x8007⟩, ⟨0xF00F, 0x800E⟩, ⟨0xF00F, 0x9000⟩ ] ++
  [ ⟨0xF000, 0xA000⟩, ⟨0xF000, 0xB000⟩, ⟨0xF000, 0xC000⟩, ⟨0xF000, 0xD000⟩, ⟨0xF0FF, 0xE09E⟩,
    ⟨0xF0FF, 0xE0A1⟩ ] ++
  [ ⟨0xF0FF, 0xF007⟩, ⟨0xF0FF, 0xF00A⟩, ⟨0xF0FF, 0xF015⟩, ⟨0xF0FF, 0xF018⟩, ⟨0xF0FF, 0xF01E⟩,
    ⟨0xF0FF, 0xF029⟩, ⟨0xF0FF, 0xF033⟩, ⟨0xF0FF, 0xF055⟩, ⟨0xF0FF, 0xF065⟩ ]

/-- The word matches the row. -/
def OpRow.accepts (r : OpRow) (w : Word) : Bool :=
  (w &&& r.mask) == r.bits

/-- The word is one of the 34 instructions (R94, R96). -/
def knownWord (w : Word) : Bool :=
  opcodeRows.any (·.accepts w)

/-- Which row of R95 an instruction stands for, counted from 0. -/
def Instr.rowIndex : Instr → Nat
  | .cls => 0 | .ret => 1 | .jp _ => 2 | .call _ => 3 | .seImm _ _ => 4 | .sneImm _ _ => 5 | .seReg _ _ => 6
  | .ldImm _ _ => 7 | .addImm _ _ => 8 | .ldReg _ _ => 9 | .orReg _ _ => 10 | .andReg _ _ => 11
  | .xorReg _ _ => 12 | .addReg _ _ => 13 | .sub _ _ => 14 | .shr _ _ => 15 | .subn _ _ => 16 | .shl _ _ => 17
  | .sneReg _ _ => 18 | .ldI _ => 19 | .jpV0 _ => 20 | .rnd _ _ => 21 | .drw _ _ _ => 22 | .skp _ => 23
  | .sknp _ => 24 | .ldVxDt _ => 25 | .ldVxK _ => 26 | .ldDtVx _ => 27 | .ldStVx _ => 28 | .addI _ => 29
  | .ldF _ => 30 | .ldB _ => 31 | .ldMemVx _ => 32 | .ldVxMem _ => 33

/-- The row of the opcode map an instruction stands for. -/
def Instr.row (i : Instr) : OpRow :=
  opcodeRows.getD i.rowIndex ⟨0, 0⟩

/-- A word is a well-formed encoding OF the instruction `i` when it matches `i`'s row (R102: "`w = match OR` the operand
fields"). -/
def Instr.wellFormedWord (i : Instr) (w : Word) : Bool :=
  i.row.accepts w

end Sys2Proof
end

