-- ==== Sys2Proof/Decode.lean ====
section
/-! DEFINITION. Decode and encode (30_encoding.md R90 to R102; 40_step_cycle.md R122). -/

namespace Sys2Proof

/-! ### Fields of the instruction word (R91) -/

/-- `op = w[15:12]`, the family nibble. -/
def Word.op (w : Word) : BitVec 4 := w.extractLsb' 12 4

/-- `X = w[11:8]`. -/
def Word.x (w : Word) : Reg := w.extractLsb' 8 4

/-- `Y = w[7:4]`. -/
def Word.y (w : Word) : Reg := w.extractLsb' 4 4

/-- `N = w[3:0]`. -/
def Word.n (w : Word) : BitVec 4 := w.extractLsb' 0 4

/-- `NN = w[7:0]`. -/
def Word.nn (w : Word) : Byte := w.extractLsb' 0 8

/-- `NNN = w[11:0]`. -/
def Word.nnn (w : Word) : Addr := w.extractLsb' 0 12

/-! ### Decode: classify by the top four bits, then sub-classify (R94) -/

/-- Family `0x0`, matched on all 16 bits: `00E0` and `00EE` only (R96 (a)). -/
def decodeFamily0 (w : Word) : Option Instr :=
  if w = 0x00E0 then some .cls
  else if w = 0x00EE then some .ret
  else none

/-- Family `0x5`: the low nibble must be 0 (R94, 90_conflicts.md C4). -/
def decodeFamily5 (w : Word) : Option Instr :=
  if Word.n w = 0x0 then some (.seReg (Word.x w) (Word.y w)) else none

/-- Family `0x8`, on the low nibble. -/
def decodeFamily8 (w : Word) : Option Instr :=
  if Word.n w = 0x0 then some (.ldReg (Word.x w) (Word.y w))
  else if Word.n w = 0x1 then some (.orReg (Word.x w) (Word.y w))
  else if Word.n w = 0x2 then some (.andReg (Word.x w) (Word.y w))
  else if Word.n w = 0x3 then some (.xorReg (Word.x w) (Word.y w))
  else if Word.n w = 0x4 then some (.addReg (Word.x w) (Word.y w))
  else if Word.n w = 0x5 then some (.sub (Word.x w) (Word.y w))
  else if Word.n w = 0x6 then some (.shr (Word.x w) (Word.y w))
  else if Word.n w = 0x7 then some (.subn (Word.x w) (Word.y w))
  else if Word.n w = 0xE then some (.shl (Word.x w) (Word.y w))
  else none

/-- Family `0x9`: the low nibble must be 0 (R94, 90_conflicts.md C4). -/
def decodeFamily9 (w : Word) : Option Instr :=
  if Word.n w = 0x0 then some (.sneReg (Word.x w) (Word.y w)) else none

/-- Family `0xE`, on the low byte. -/
def decodeFamilyE (w : Word) : Option Instr :=
  if Word.nn w = 0x9E then some (.skp (Word.x w))
  else if Word.nn w = 0xA1 then some (.sknp (Word.x w))
  else none

/-- Family `0xF`, on the low byte. -/
def decodeFamilyF (w : Word) : Option Instr :=
  if Word.nn w = 0x07 then some (.ldVxDt (Word.x w))
  else if Word.nn w = 0x0A then some (.ldVxK (Word.x w))
  else if Word.nn w = 0x15 then some (.ldDtVx (Word.x w))
  else if Word.nn w = 0x18 then some (.ldStVx (Word.x w))
  else if Word.nn w = 0x1E then some (.addI (Word.x w))
  else if Word.nn w = 0x29 then some (.ldF (Word.x w))
  else if Word.nn w = 0x33 then some (.ldB (Word.x w))
  else if Word.nn w = 0x55 then some (.ldMemVx (Word.x w))
  else if Word.nn w = 0x65 then some (.ldVxMem (Word.x w))
  else none

/-- Decode a word: `none` is the spec's `UnknownOpcode(w)` (R94, R96, R122). It reads nothing but `w`. -/
def decode (w : Word) : Option Instr :=
  if Word.op w = 0x0 then decodeFamily0 w
  else if Word.op w = 0x1 then some (.jp (Word.nnn w))
  else if Word.op w = 0x2 then some (.call (Word.nnn w))
  else if Word.op w = 0x3 then some (.seImm (Word.x w) (Word.nn w))
  else if Word.op w = 0x4 then some (.sneImm (Word.x w) (Word.nn w))
  else if Word.op w = 0x5 then decodeFamily5 w
  else if Word.op w = 0x6 then some (.ldImm (Word.x w) (Word.nn w))
  else if Word.op w = 0x7 then some (.addImm (Word.x w) (Word.nn w))
  else if Word.op w = 0x8 then decodeFamily8 w
  else if Word.op w = 0x9 then decodeFamily9 w
  else if Word.op w = 0xA then some (.ldI (Word.nnn w))
  else if Word.op w = 0xB then some (.jpV0 (Word.nnn w))
  else if Word.op w = 0xC then some (.rnd (Word.x w) (Word.nn w))
  else if Word.op w = 0xD then some (.drw (Word.x w) (Word.y w) (Word.n w))
  else if Word.op w = 0xE then decodeFamilyE w
  else decodeFamilyF w

/-- Why a sequence of bytes is no instruction. -/
inductive DecodeError where
  /-- Fewer than two bytes are left; every instruction is exactly two (R90). -/
  | truncated (remaining : Nat)
  /-- The word matches no row of the opcode map: `UnknownOpcode(w)` (R96, R281). -/
  | unknownOpcode (w : Word)
  deriving DecidableEq, Repr

/-- The word formed by two bytes in memory order: the byte at the lower address is the high byte (20_memory.md R65). -/
def wordOfBytes (hi lo : Byte) : Word := hi ++ lo

/-- Decode the instruction at the head of any bytes in memory order, with the rest of the bytes. -/
def decodeBytes : List Byte → Except DecodeError (Instr × List Byte)
  | hi :: lo :: rest =>
    match decode (wordOfBytes hi lo) with
    | some i => .ok (i, rest)
    | none => .error (.unknownOpcode (wordOfBytes hi lo))
  | short => .error (.truncated short.length)

/-- The bytes of a word in the order the machine stores them, high byte first (R65, R90). -/
def bytesOfWord (w : Word) : List Byte :=
  [w.extractLsb' 8 8, w.extractLsb' 0 8]

/-- The word of a table row's bits `w`: bit 0 least significant, bits at and above `nbits` zero. -/
def tableWord (nbits w : Nat) : Word :=
  BitVec.ofNat 16 (w % 2 ^ nbits)

/-- What the decoder reads from an instruction whose bits are `w`, numbered as spec/opcode_table.json numbers them. -/
def decodeTableWord (nbits w : Nat) : Option Instr :=
  match decodeBytes (bytesOfWord (tableWord nbits w)) with
  | .ok (i, _) => some i
  | .error _ => none

/-! ### Encode: the pattern's digits with the operand fields in place (R91, R95, R102) -/

/-- The word of an instruction, written digit by digit from the patterns of R95. -/
def encode : Instr → Word
  | .cls => 0x00E0#16
  | .ret => 0x00EE#16
  | .jp nnn => 0x1#4 ++ nnn
  | .call nnn => 0x2#4 ++ nnn
  | .seImm x nn => 0x3#4 ++ x ++ nn
  | .sneImm x nn => 0x4#4 ++ x ++ nn
  | .seReg x y => 0x5#4 ++ x ++ y ++ 0x0#4
  | .ldImm x nn => 0x6#4 ++ x ++ nn
  | .addImm x nn => 0x7#4 ++ x ++ nn
  | .ldReg x y => 0x8#4 ++ x ++ y ++ 0x0#4
  | .orReg x y => 0x8#4 ++ x ++ y ++ 0x1#4
  | .andReg x y => 0x8#4 ++ x ++ y ++ 0x2#4
  | .xorReg x y => 0x8#4 ++ x ++ y ++ 0x3#4
  | .addReg x y => 0x8#4 ++ x ++ y ++ 0x4#4
  | .sub x y => 0x8#4 ++ x ++ y ++ 0x5#4
  | .shr x y => 0x8#4 ++ x ++ y ++ 0x6#4
  | .subn x y => 0x8#4 ++ x ++ y ++ 0x7#4
  | .shl x y => 0x8#4 ++ x ++ y ++ 0xE#4
  | .sneReg x y => 0x9#4 ++ x ++ y ++ 0x0#4
  | .ldI nnn => 0xA#4 ++ nnn
  | .jpV0 nnn => 0xB#4 ++ nnn
  | .rnd x nn => 0xC#4 ++ x ++ nn
  | .drw x y n => 0xD#4 ++ x ++ y ++ n
  | .skp x => 0xE#4 ++ x ++ 0x9E#8
  | .sknp x => 0xE#4 ++ x ++ 0xA1#8
  | .ldVxDt x => 0xF#4 ++ x ++ 0x07#8
  | .ldVxK x => 0xF#4 ++ x ++ 0x0A#8
  | .ldDtVx x => 0xF#4 ++ x ++ 0x15#8
  | .ldStVx x => 0xF#4 ++ x ++ 0x18#8
  | .addI x => 0xF#4 ++ x ++ 0x1E#8
  | .ldF x => 0xF#4 ++ x ++ 0x29#8
  | .ldB x => 0xF#4 ++ x ++ 0x33#8
  | .ldMemVx x => 0xF#4 ++ x ++ 0x55#8
  | .ldVxMem x => 0xF#4 ++ x ++ 0x65#8

end Sys2Proof
end

