-- ==== Sys2Proof/Config.lean ====
section
/-! DEFINITION. What an implementation fixes: the fixed parameters of 00_scope.md R6, the font of
20_memory.md R76, and the one free value of the spec, the random byte (R7). -/

namespace Sys2Proof

/-- `MEM_SIZE`: the one memory has 4096 bytes (R6, R60). -/
def Config.memSize : Nat := 4096

/-- The highest address, `0xFFF` (R60). -/
def Config.maxAddr : Nat := 0xFFF

/-- `PROG_BASE`: load address and initial `pc` (R6). -/
def Config.progBase : Nat := 0x200

/-- `PROG_MAX`: the largest image Load accepts, 4096 − 512 bytes (R6, R252). -/
def Config.progMax : Nat := 3584

/-- `FB_W` (R6). -/
def Config.fbWidth : Nat := 64

/-- `FB_H` (R6). -/
def Config.fbHeight : Nat := 32

/-- `GLYPH_BYTES` (R6, R192). -/
def Config.glyphBytes : Nat := 5

/-- The default table of the parameter `FONT`, one row of five bytes per digit (20_memory.md R76).
PRESUMED: the spec takes the bytes from general knowledge of the CHIP-8 family (decision D8). Unsafe (log 2). -/
def Config.glyphs : List (List Byte) :=
  [ [0xF0, 0x90, 0x90, 0x90, 0xF0],
    [0x20, 0x60, 0x20, 0x20, 0x70],
    [0xF0, 0x10, 0xF0, 0x80, 0xF0],
    [0xF0, 0x10, 0xF0, 0x10, 0xF0],
    [0x90, 0x90, 0xF0, 0x10, 0x10],
    [0xF0, 0x80, 0xF0, 0x10, 0xF0],
    [0xF0, 0x80, 0xF0, 0x90, 0xF0],
    [0xF0, 0x10, 0x20, 0x40, 0x40] ] ++
  [ [0xF0, 0x90, 0xF0, 0x90, 0xF0],
    [0xF0, 0x90, 0xF0, 0x10, 0xF0],
    [0xF0, 0x90, 0xF0, 0x90, 0x90],
    [0xE0, 0x90, 0xE0, 0x90, 0xE0],
    [0xF0, 0x80, 0x80, 0x80, 0xF0],
    [0xE0, 0x90, 0x90, 0x90, 0xE0],
    [0xF0, 0x80, 0xF0, 0x80, 0xF0],
    [0xF0, 0x80, 0xF0, 0x80, 0x80] ]

/-- The 80 default font bytes in address order: `mem[k] = FONT[k]` at reset (R76, R34). -/
def Config.font : List Byte := Config.glyphs.flatten

/-- The random byte of `CXNN`: a free 8-bit input of each Step (R7 (b), R171, decision D15). `Config.rnd k` is the
`k`-th byte drawn; `State.draws` counts the draws. It has no body, so no proof can see a value. Safe (log 1). -/
opaque Config.rnd : Nat → Byte

end Sys2Proof
end

