-- ==== Sys2Proof/Machine/State.lean ====
section
/-! DEFINITION. The one state record of 10_state.md R20, as plain data, its reset values (R34), and the ways an operation
can end without a next state (60_exceptions.md R280). -/

namespace Sys2Proof.Machine

/-- Memory: (address, byte) pairs in one canonical form, addresses strictly rising and no entry equal to what an unlisted
address reads as (`Memory.wf`, Machine/Ops.lean). -/
abbrev Memory := List Host.Cell

/-- The framebuffer: 32 rows of 64 bits; pixel `fb[x, y]` is bit `x` of row `y` (10_state.md R29; log 10). -/
abbrev Framebuffer := Vector (BitVec 64) 32

/-- The Machine State. Every field but the last is a row of the table of R20. -/
structure State where
  /-- `mem`, 4096 bytes (R60). -/
  mem : Memory
  /-- `V[0..15]`, with `VF = V[15]` (R21, R22). -/
  v : Vector Byte 16
  /-- The index register `I`: 16-bit storage of a 12-bit value (R25). -/
  idx : Word
  /-- The program counter: 16-bit storage of a 12-bit value (R24). -/
  pc : Word
  /-- The call stack, sixteen 16-bit entries; a separate array, not part of `mem` (R26). -/
  stack : Vector Word 16
  /-- The stack pointer, the number of entries in use, 0 to 16 (R26). -/
  sp : Fin 17
  /-- The delay timer `DT` (R27). -/
  dt : Byte
  /-- The sound timer `ST` (R27). -/
  st : Byte
  /-- The framebuffer (R29). -/
  fb : Framebuffer
  /-- The keypad: `keypad[k]` is true when key `k` is pressed (R30). -/
  keypad : Vector Bool 16
  /-- The draw-pending flag (R31). -/
  drawPending : Bool
  /-- THE MODEL'S OWN FIELD: how many random bytes have been drawn. `CXNN` reads `Config.rnd` at it and advances it,
  which is how the free Step input `rnd` (00_scope.md R7) reaches a step that takes the state alone (log 1). -/
  draws : Nat
  deriving DecidableEq, Repr

/-- The five error kinds (60_exceptions.md R280), with the info each records. An error is returned to the host with the
whole state exactly as it was (R13, R126, R288), so a fault carries no state. All five are safe: the machine reports
them itself (log 8). -/
inductive Fault where
  /-- Code 1. Raised by Step's decode of a word outside the opcode map; info: the word (R281). Safe. -/
  | unknownOpcode (w : Word)
  /-- Code 2. Raised by `2NNN` with `sp = 16` (R282). Safe. -/
  | stackOverflow
  /-- Code 3. Raised by `00EE` with `sp = 0` (R283). Safe. -/
  | stackUnderflow
  /-- Code 4. Raised by fetch at `pc = 0xFFF`, by `DXYN`, `FX33`, `FX55`, `FX65` past `0xFFF` (info: the highest address
  asked for) and by `EX9E`, `EXA1` with a key index above 15 (info: the index) (R284). Safe. -/
  | outOfBounds (a : Nat)
  /-- Code 5. Raised by Load of more than 3584 bytes, never by Step; info: the length (R285). Safe. -/
  | programTooLarge (len : Nat)
  deriving DecidableEq, Repr

/-- Why a step would have no meaning. Nothing raises it in this model: all 34 instructions have a meaning (R16). -/
inductive Refusal where
  /-- An arm of `exec` with no meaning yet would raise it, by the row's mnemonic. Safe; no arm does. -/
  | notModelled (mnemonic : String)
  deriving DecidableEq, Repr

/-- The record after Init and Reset (R34, R251), with the default font: memory lists nothing, because an unlisted address
reads as its reset contents. `pc`, `sp`, the timers and `V` are the source's values; `I`, the stack entries, the
framebuffer, `draw_pending` and the keypad are the spec's decision D9 (log 4); `draws` is the model's (log 1). -/
def State.reset : State where
  mem := []
  v := Vector.replicate 16 0
  idx := 0
  pc := 0x200
  stack := Vector.replicate 16 0
  sp := 0
  dt := 0
  st := 0
  fb := Vector.replicate 32 0
  keypad := Vector.replicate 16 false
  drawPending := false
  draws := 0

end Sys2Proof.Machine
end

