-- ==== Sys2Proof/Machine/Ops.lean ====
section
/-! DEFINITION. The named operations over memory and the state record (00_scope.md R11, 20_memory.md, 10_state.md,
40_step_cycle.md), raising an error (00_scope.md R13), and Init with its font argument (50_host_interface.md R251). -/

namespace Sys2Proof.Machine

/-- How an operation ends. -/
abbrev Result := Host.Outcome State Fault Refusal

/-! ### Memory (20_memory.md) -/

/-- What an address that memory does not list reads as: its reset contents (R34), the default font at `0x000`–`0x04F`
(R76) and zero everywhere else (decisions D9, D10). Unsafe (log 2, log 3). -/
def Memory.unlisted (a : Nat) : Byte :=
  Config.font.getD a 0

/-- The byte at address `a` (`mem[a]`, R11). A read has no side effect (R63, R68). -/
def Memory.read : Memory → Nat → Byte
  | [], a => Memory.unlisted a
  | (b, u) :: m, a => if a = b then u else Memory.read m a

/-- `mem[a] <- u`: that one byte changes and nothing else (R64). Keeps the canonical form: writing what an unlisted
address reads as removes the entry. -/
def Memory.write : Memory → Nat → Byte → Memory
  | [], a, u => if u = Memory.unlisted a then [] else [(a, u)]
  | (b, c) :: m, a, u =>
    if a < b then
      if u = Memory.unlisted a then (b, c) :: m else (a, u) :: (b, c) :: m
    else if a = b then
      if u = Memory.unlisted a then m else (a, u) :: m
    else (b, c) :: Memory.write m a u

/-- Store the bytes one by one at `a`, `a + 1`, ... (R66: ascending addresses). -/
def Memory.writeBytes : Memory → Nat → List Byte → Memory
  | m, _, [] => m
  | m, a, u :: us => Memory.writeBytes (Memory.write m a u) (a + 1) us

/-- The canonical form: addresses strictly rising, all in `0x000`–`0xFFF` (R60), no entry equal to what an unlisted
address reads as. -/
abbrev Memory.wf (m : Memory) : Prop :=
  m.Pairwise (fun c d => c.1 < d.1) ∧ ∀ c ∈ m, c.1 < Config.memSize ∧ c.2 ≠ Memory.unlisted c.1

/-! ### Errors: the one way an operation ends early (00_scope.md R13, 60_exceptions.md R288) -/

/-- `raise E(info)`: the operation ends at once and has no effect at all; there is no handler, no saved register and no
vector inside the machine (R13, R288). The state record the host still holds is the one the operation began with. -/
def raise (e : Fault) : Result := .fault e

/-- An instruction whose highest address is `top` checks it before its first effect: above `0xFFF` it raises
`OutOfBounds(top)`, otherwise it goes on to `t` (R63, R64, R77, R78). -/
def checkTop (top : Nat) (t : State) : Result :=
  if Config.maxAddr < top then raise (.outOfBounds top) else .next t

/-! ### Register access (00_scope.md R11) -/

/-- `V[x]`. -/
def State.getV (s : State) (x : Reg) : Byte :=
  s.v[x.toNat]'x.isLt

/-- `V[x] <- u`. -/
def State.setV (s : State) (x : Reg) (u : Byte) : State :=
  { s with v := s.v.set x.toNat u x.isLt }

/-- The flag register `VF = V[15]` (10_state.md R22). -/
def flagReg : Reg := 0xF

/-- `V[0xF] <- 1 if c else 0` (10_state.md R23: exactly `0x00` or `0x01`). -/
def State.setFlag (s : State) (c : Bool) : State :=
  s.setV flagReg (if c then 1 else 0)

/-- `pc <- target`: stores `target mod 4096` (R11, 10_state.md R24, decision D3; log 5). -/
def State.setPc (s : State) (target : Nat) : State :=
  { s with pc := BitVec.ofNat 16 (target % Config.memSize) }

/-- `I <- n`: stores `n mod 4096` (R11, 10_state.md R25, decision D3; log 5). -/
def State.setIdx (s : State) (n : Nat) : State :=
  { s with idx := BitVec.ofNat 16 (n % Config.memSize) }

/-- `DT <- u` (10_state.md R27). -/
def State.setDt (s : State) (u : Byte) : State := { s with dt := u }

/-- `ST <- u` (10_state.md R27). -/
def State.setSt (s : State) (u : Byte) : State := { s with st := u }

/-- Replace memory. -/
def State.setMem (s : State) (m : Memory) : State := { s with mem := m }

/-- A new picture, and the draw-pending flag set (10_state.md R31). -/
def State.setPicture (s : State) (fb : Framebuffer) : State := { s with fb := fb, drawPending := true }

/-! ### Program-counter classes (40_step_cycle.md R123) -/

/-- Class sequential: `pc <- pc + 2`, the last effect of the instruction. -/
def State.advance (s : State) : State := s.setPc (s.pc.toNat + 2)

/-- Class skip: `pc <- pc + 4` if the condition holds, else `pc <- pc + 2`; the skipped bytes are not looked at
(41_flow.md R148). -/
def State.skipIf (s : State) (c : Bool) : State :=
  if c then s.setPc (s.pc.toNat + 4) else s.advance

/-! ### The call stack (10_state.md R26) -/

/-- Push a return address and go to `target`, or `StackOverflow` at `sp = 16` (R26, 41_flow.md R142). -/
def State.pushAndGo (s : State) (ret : Word) (target : Nat) : Result :=
  if h : s.sp.val < 16 then
    .next (State.setPc { s with stack := s.stack.set s.sp.val ret h, sp := ⟨s.sp.val + 1, by omega⟩ } target)
  else raise .stackOverflow

/-- Pop into `pc`, or `StackUnderflow` at `sp = 0`; the popped entry keeps its value (R26, decision D23, 41_flow.md
R140). -/
def State.popAndGo (s : State) : Result :=
  if h : 0 < s.sp.val then
    .next (State.setPc { s with sp := ⟨s.sp.val - 1, by omega⟩ } (s.stack[s.sp.val - 1]'(by omega)).toNat)
  else raise .stackUnderflow

/-! ### Fetch (40_step_cycle.md R121, 20_memory.md R63, R65) -/

/-- `MemRead(pc, 2)`: the word at `pc`, big-endian, or `OutOfBounds(pc + 1)`. Changes nothing; no alignment (R67). -/
def State.fetch (s : State) : Except Fault Word :=
  if Config.maxAddr < s.pc.toNat + 1 then .error (.outOfBounds (s.pc.toNat + 1))
  else .ok (wordOfBytes (s.mem.read s.pc.toNat) (s.mem.read (s.pc.toNat + 1)))

/-- Fetch, then decode: the instruction to run, or the error of that phase (R120, R121, R122, 60_exceptions.md R287). -/
def State.fetchInstr (s : State) : Except Fault Instr :=
  match s.fetch with
  | .error e => .error e
  | .ok w =>
    match decode w with
    | some i => .ok i
    | none => .error (.unknownOpcode w)

/-- The state with the bytes of a table row's word stored where the next fetch reads them, at `pc` and `pc + 1`. At
`pc = 0xFFF` no word can be fetched (R121), so the bytes change nothing there (log 15). -/
def State.placeWord (s : State) (nbits w : Nat) : State :=
  if Config.maxAddr < s.pc.toNat + 1 then s
  else s.setMem (s.mem.writeBytes s.pc.toNat (bytesOfWord (tableWord nbits w)))

/-! ### The timer tick (40_step_cycle.md R124, R125) -/

/-- "decremented toward zero once per timer tick; never wrap below 0" (10_state.md R27). -/
def tickDown (u : Byte) : Byte := if u = 0 then 0 else u - 1

/-- One timer tick: both timers, independently, and nothing else (R124). -/
def State.timerTick (s : State) : State := { s with dt := tickDown s.dt, st := tickDown s.st }

/-- The tone output of a tick performed now: `ST > 0` immediately before the decrement (R125). -/
def State.tone (s : State) : Bool := decide (0 < s.st.toNat)

/-! ### Init with the font as an argument (00_scope.md R7 (a), 50_host_interface.md R251) -/

/-- The record Init and Reset make on a machine whose parameter `FONT` is `font`: the default record with the 80 bytes of
`font` at `0x000`–`0x04F` (R34, R76). `State.reset` is the case `font = Config.font`. -/
def State.initWith (font : Vector Byte 80) : State :=
  State.reset.setMem (State.reset.mem.writeBytes 0 font.toList)

end Sys2Proof.Machine
end

