-- ==== Sys2Proof/Machine/Flags.lean ====
section
/-! DEFINITION. The arithmetic results and every value of the flag `VF` (10_state.md R23; 42_alu.md; 43_index_memory.md
R191). Results are computed on unbounded integers and reduced at the end (00_scope.md R9). -/

namespace Sys2Proof.Machine

/-- `(a + b) mod 256` (R161, R166). -/
def addByte (a b : Byte) : Byte := BitVec.ofNat 8 ((a.toNat + b.toNat) % 256)

/-- The carry of `8XY4`: the unreduced sum exceeds 255 (R166, R174). -/
def carry (a b : Byte) : Bool := decide (255 < a.toNat + b.toNat)

/-- `(a − b) mod 256`: `a - b` if `a ≥ b`, else `a - b + 256` (R167, R169). -/
def subByte (a b : Byte) : Byte := BitVec.ofNat 8 ((a.toNat + 256 - b.toNat) % 256)

/-- No borrow of `a − b`: not `b > a` (R167, R169). -/
def noBorrow (a b : Byte) : Bool := !decide (a.toNat < b.toNat)

/-- `a >> 1`, logical (R168). -/
def shrByte (a : Byte) : Byte := BitVec.ofNat 8 (a.toNat / 2)

/-- The bit `8XY6` shifts out, `a[0]` (R168). -/
def lowBit (a : Byte) : Bool := a.getLsbD 0

/-- `(a << 1) mod 256` (R170). -/
def shlByte (a : Byte) : Byte := BitVec.ofNat 8 (a.toNat * 2 % 256)

/-- The bit `8XYE` shifts out, `a[7]` (R170). -/
def highBit (a : Byte) : Bool := a.getLsbD 7

/-- The index overflow of `FX1E`: `I + VX > 0xFFF` (R191). -/
def idxOverflow (s : State) (a : Byte) : Bool := decide (Config.maxAddr < s.idx.toNat + a.toNat)

/-- `VX` is written first and the flag second, so the flag remains when `X = 0xF` (R12, R173, decision D1; log 6). -/
def State.resultThenFlag (s : State) (x : Reg) (r : Byte) (c : Bool) : State :=
  ((s.setV x r).setFlag c).advance

/-- The flag is written first and `VX` second, so the result remains when `X = 0xF` (R12, R173, decision D1; log 6). -/
def State.flagThenResult (s : State) (x : Reg) (r : Byte) (c : Bool) : State :=
  ((s.setFlag c).setV x r).advance

end Sys2Proof.Machine
end

