-- ==== Sys2Proof/Machine/Alu.lean ====
section
/-! DEFINITION. Register and ALU instructions (42_alu.md). All are of class sequential and none can raise an error. -/

namespace Sys2Proof.Machine

/-- `6XNN`: `VX := NN` (R160). -/
def execLdImm (x : Reg) (nn : Byte) (s : State) : Result := .next (s.setV x nn).advance

/-- `7XNN`: `VX := (VX + NN) mod 256`, no flag (R161). -/
def execAddImm (x : Reg) (nn : Byte) (s : State) : Result := .next (s.setV x (addByte (s.getV x) nn)).advance

/-- `8XY0`: `VX := VY` (R162). -/
def execLdReg (x y : Reg) (s : State) : Result := .next (s.setV x (s.getV y)).advance

/-- `8XY1`: `VX := VX OR VY`, no flag (R163). -/
def execOrReg (x y : Reg) (s : State) : Result := .next (s.setV x (s.getV x ||| s.getV y)).advance

/-- `8XY2`: `VX := VX AND VY`, no flag (R164). -/
def execAndReg (x y : Reg) (s : State) : Result := .next (s.setV x (s.getV x &&& s.getV y)).advance

/-- `8XY3`: `VX := VX XOR VY`, no flag (R165). -/
def execXorReg (x y : Reg) (s : State) : Result := .next (s.setV x (s.getV x ^^^ s.getV y)).advance

/-- `8XY4`: `VX := VX + VY mod 256`, then `VF` = carry (R166). -/
def execAddReg (x y : Reg) (s : State) : Result :=
  .next (s.resultThenFlag x (addByte (s.getV x) (s.getV y)) (carry (s.getV x) (s.getV y)))

/-- `8XY5`: `VX := VX − VY mod 256`, then `VF` = no borrow (R167). -/
def execSub (x y : Reg) (s : State) : Result :=
  .next (s.resultThenFlag x (subByte (s.getV x) (s.getV y)) (noBorrow (s.getV x) (s.getV y)))

/-- `8XY6`: `VF` = bit 0 of `VX`, then `VX := VX >> 1` of the old `VX`; `Y` is ignored (R168, R99). -/
def execShr (x _y : Reg) (s : State) : Result :=
  .next (s.flagThenResult x (shrByte (s.getV x)) (lowBit (s.getV x)))

/-- `8XY7`: `VX := VY − VX mod 256`, then `VF` = no borrow (R169). -/
def execSubn (x y : Reg) (s : State) : Result :=
  .next (s.resultThenFlag x (subByte (s.getV y) (s.getV x)) (noBorrow (s.getV y) (s.getV x)))

/-- `8XYE`: `VF` = bit 7 of `VX`, then `VX := VX << 1 mod 256` of the old `VX`; `Y` is ignored (R170, R99). -/
def execShl (x _y : Reg) (s : State) : Result :=
  .next (s.flagThenResult x (shlByte (s.getV x)) (highBit (s.getV x)))

/-- `CXNN`: `VX := rnd AND NN`, `rnd` the next free byte (R171, R7 (b); log 1). -/
def execRnd (x : Reg) (nn : Byte) (s : State) : Result :=
  .next (State.advance { s.setV x (Config.rnd s.draws &&& nn) with draws := s.draws + 1 })

end Sys2Proof.Machine
end

