-- ==== Sys2Proof/Machine/Operands.lean ====
section
/-! DEFINITION. Operand forms (30_encoding.md R93): a register, an immediate, a 12-bit address, "memory at `I`", the key
named by a register, a pixel of the framebuffer, a row range of a sprite; and the transfers over them. -/

namespace Sys2Proof.Machine

/-! ### Memory at `I` (43_index_memory.md) -/

/-- The address `I + k`, not reduced (20_memory.md R77). -/
def State.atI (s : State) (k : Nat) : Nat := s.idx.toNat + k

/-- The three decimal digits of a byte: hundreds, tens, units (R193). -/
def bcdDigits (a : Byte) : List Byte :=
  [BitVec.ofNat 8 (a.toNat / 100), BitVec.ofNat 8 (a.toNat / 10 % 10), BitVec.ofNat 8 (a.toNat % 10)]

/-- `V[0..X]`, the bytes `FX55` stores, in ascending order (R194). -/
def State.regBytes (s : State) (x : Reg) : List Byte :=
  s.v.toList.take (x.toNat + 1)

/-- `V[k] <- mem[i + k]` for `k = 0` to `n - 1`, ascending (R195). -/
def loadRegs (m : Memory) (i n : Nat) (v : Vector Byte 16) : Vector Byte 16 :=
  (List.range n).foldl (fun v k => v.setIfInBounds k (m.read (i + k))) v

/-! ### The keypad (45_keypad_timers.md) -/

/-- The flag of key `k`; `k` above 15 names no key (R230). -/
def State.keyDown (s : State) (k : Nat) : Bool :=
  s.keypad.toList.getD k false

/-- "the numerically lowest pressed key index", or none when no key is pressed (R232). -/
def State.lowestKey (s : State) : Option Nat :=
  s.keypad.toList.findIdx? (fun down => down)

/-- A skip on the key named by `V[x]`: an index above 15 raises `OutOfBounds` with the index (R230, R231, decision D6;
log 9). -/
def State.skipOnKey (s : State) (x : Reg) (whenDown : Bool) : Result :=
  if 15 < (s.getV x).toNat then raise (.outOfBounds (s.getV x).toNat)
  else .next (s.skipIf (s.keyDown (s.getV x).toNat == whenDown))

/-! ### The framebuffer (44_display.md) -/

/-- `fb[x mod 64, y mod 32]` (R212: wraparound on both axes). -/
def Framebuffer.pixel (fb : Framebuffer) (x y : Nat) : Bool :=
  (fb[y % 32]'(Nat.mod_lt y (by decide))).getLsbD (x % 64)

/-- `fb[x mod 64, y mod 32] <- fb[x mod 64, y mod 32] XOR 1` (R211). -/
def Framebuffer.flip (fb : Framebuffer) (x y : Nat) : Framebuffer :=
  fb.set (y % 32) ((fb[y % 32]'(Nat.mod_lt y (by decide))) ^^^ BitVec.twoPow 64 (x % 64)) (Nat.mod_lt y (by decide))

/-- A drawing under way: the picture so far and whether some pixel has gone from set to unset. -/
structure Drawing where
  fb : Framebuffer
  hit : Bool
  deriving DecidableEq, Repr

/-- One sprite bit 1 at `(x, y)`: `if fb[px, py] == 1: hit = 1`, then the XOR (R211). -/
def Drawing.plot (d : Drawing) (x y : Nat) : Drawing :=
  { fb := d.fb.flip x y, hit := d.hit || d.fb.pixel x y }

/-- Column offset `c` of a sprite byte is bit `7 − c` (R213, decision D7; log 10). -/
def spriteBit (b : Byte) (c : Nat) : Bool := b.getLsbD (7 - c)

/-- One sprite row: the columns `c = 0` to `7` (R211). -/
def Drawing.row (d : Drawing) (b : Byte) (x0 y : Nat) : Drawing :=
  (List.range 8).foldl (fun d c => if spriteBit b c then d.plot (x0 + c) y else d) d

/-- The sprite's rows `r = 0` to `n - 1`, read from `i + r` (R211). -/
def Drawing.sprite (d : Drawing) (m : Memory) (i n x0 y0 : Nat) : Drawing :=
  (List.range n).foldl (fun d r => d.row (m.read (i + r)) x0 (y0 + r)) d

/-- All 2048 pixels 0 (R210). -/
def Framebuffer.clear : Framebuffer := Vector.replicate 32 0

end Sys2Proof.Machine
end

