-- ==== Sys2Proof/Machine/Display.lean ====
section
/-! DEFINITION. Display instructions (44_display.md). -/

namespace Sys2Proof.Machine

/-- `00E0`: clear the framebuffer, set draw-pending (R210). -/
def execCls (s : State) : Result := .next (s.setPicture Framebuffer.clear).advance

/-- What a draw makes of the present picture, with the operands read before any write (R211). -/
def State.drawing (s : State) (x y : Reg) (n : BitVec 4) : Drawing :=
  Drawing.sprite ⟨s.fb, false⟩ s.mem (s.atI 0) n.toNat (s.getV x).toNat (s.getV y).toNat

/-- `DXYN`: XOR the `N`-row sprite at `I` onto the picture at `(VX, VY)`, `VF` = collision, draw-pending set; `N = 0` draws
nothing and cannot raise (R211, decision D24; log 11). -/
def execDrw (x y : Reg) (n : BitVec 4) (s : State) : Result :=
  let t := ((s.setPicture (s.drawing x y n).fb).setFlag (s.drawing x y n).hit).advance
  if n = 0 then .next t else checkTop (s.atI (n.toNat - 1)) t

end Sys2Proof.Machine
end

