-- ==== Sys2Proof/Machine/Flow.lean ====
section
/-! DEFINITION. Control transfer (41_flow.md). -/

namespace Sys2Proof.Machine

/-- `00EE`: pop the stack into `pc`; `StackUnderflow` at `sp = 0` (R140). -/
def execRet (s : State) : Result := s.popAndGo

/-- `1NNN`: `pc <- NNN` (R141). -/
def execJp (nnn : Addr) (s : State) : Result := .next (s.setPc nnn.toNat)

/-- `2NNN`: push `(pc + 2) mod 4096`, then `pc <- NNN`; `StackOverflow` at `sp = 16` (R142, decision D2; log 7). -/
def execCall (nnn : Addr) (s : State) : Result :=
  s.pushAndGo (BitVec.ofNat 16 ((s.pc.toNat + 2) % Config.memSize)) nnn.toNat

/-- `BNNN`: `pc <- (NNN + V0) mod 4096` (R143). -/
def execJpV0 (nnn : Addr) (s : State) : Result := .next (s.setPc (nnn.toNat + (s.getV 0).toNat))

/-- `3XNN`: skip if `VX = NN` (R144). -/
def execSeImm (x : Reg) (nn : Byte) (s : State) : Result := .next (s.skipIf (s.getV x == nn))

/-- `4XNN`: skip if `VX ≠ NN` (R145). -/
def execSneImm (x : Reg) (nn : Byte) (s : State) : Result := .next (s.skipIf (s.getV x != nn))

/-- `5XY0`: skip if `VX = VY` (R146). -/
def execSeReg (x y : Reg) (s : State) : Result := .next (s.skipIf (s.getV x == s.getV y))

/-- `9XY0`: skip if `VX ≠ VY` (R147). -/
def execSneReg (x y : Reg) (s : State) : Result := .next (s.skipIf (s.getV x != s.getV y))

end Sys2Proof.Machine
end

