-- ==== Sys2Proof/Machine/IndexMemory.lean ====
section
/-! DEFINITION. Index register and memory instructions (43_index_memory.md). All are of class sequential; an access past
`0xFFF` raises `OutOfBounds` before any effect (20_memory.md R77, R78). -/

namespace Sys2Proof.Machine

/-- `ANNN`: `I := NNN` (R190). -/
def execLdI (nnn : Addr) (s : State) : Result := .next (s.setIdx nnn.toNat).advance

/-- `FX1E`: `VF` = index overflow, `I := (I + VX) mod 4096`, with the old `VX` (R191). -/
def execAddI (x : Reg) (s : State) : Result :=
  .next ((s.setFlag (idxOverflow s (s.getV x))).setIdx (s.idx.toNat + (s.getV x).toNat)).advance

/-- `FX29`: `I := VX × 5`, the whole byte (R192, decision D27; log 11). -/
def execLdF (x : Reg) (s : State) : Result :=
  .next (s.setIdx ((s.getV x).toNat * Config.glyphBytes)).advance

/-- `FX33`: the decimal digits of `VX` at `I`, `I + 1`, `I + 2`; `I` unchanged (R193). -/
def execLdB (x : Reg) (s : State) : Result :=
  checkTop (s.atI 2) (s.setMem (s.mem.writeBytes (s.atI 0) (bcdDigits (s.getV x)))).advance

/-- `FX55`: `V0..VX` into memory at `I`, then `I := (I + X + 1) mod 4096` (R194). -/
def execLdMemVx (x : Reg) (s : State) : Result :=
  checkTop (s.atI x.toNat)
    ((s.setMem (s.mem.writeBytes (s.atI 0) (s.regBytes x))).setIdx (s.atI (x.toNat + 1))).advance

/-- `FX65`: memory at `I` into `V0..VX`, then `I := (I + X + 1) mod 4096` (R195). -/
def execLdVxMem (x : Reg) (s : State) : Result :=
  checkTop (s.atI x.toNat)
    (State.setIdx { s with v := loadRegs s.mem (s.atI 0) (x.toNat + 1) s.v } (s.atI (x.toNat + 1))).advance

end Sys2Proof.Machine
end

