-- ==== Sys2Proof/Machine/KeypadTimers.lean ====
section
/-! DEFINITION. Keypad and timer instructions (45_keypad_timers.md). -/

namespace Sys2Proof.Machine

/-- `EX9E`: skip if key `VX` is pressed (R230). -/
def execSkp (x : Reg) (s : State) : Result := s.skipOnKey x true

/-- `EXA1`: skip if key `VX` is not pressed (R231). -/
def execSknp (x : Reg) (s : State) : Result := s.skipOnKey x false

/-- `FX0A`: with no key pressed nothing is written and `pc` stays; else `VX` := the lowest pressed key (R232, decision D13;
log 12). -/
def execLdVxK (x : Reg) (s : State) : Result :=
  match s.lowestKey with
  | none => .next s
  | some k => .next (s.setV x (BitVec.ofNat 8 k)).advance

/-- `FX07`: `VX := DT`, before this Step's tick (R233). -/
def execLdVxDt (x : Reg) (s : State) : Result := .next (s.setV x s.dt).advance

/-- `FX15`: `DT := VX` (R234). -/
def execLdDtVx (x : Reg) (s : State) : Result := .next (s.setDt (s.getV x)).advance

/-- `FX18`: `ST := VX` (R235). -/
def execLdStVx (x : Reg) (s : State) : Result := .next (s.setSt (s.getV x)).advance

end Sys2Proof.Machine
end

