-- ==== Sys2Proof/Machine/Cycle.lean ====
section
/-! DEFINITION. The four phases of Step and its three outputs (40_step_cycle.md R120 to R127): the new record, the result,
and the tone. -/

namespace Sys2Proof.Machine

/-- The timer tick that follows execute; an error ends the Step before it (R124, R126). -/
def tickAfter : Result → Result
  | .next t => .next t.timerTick
  | .fault e => .fault e
  | .refused r => .refused r

/-- Step: fetch, decode, execute, timer tick, in this order and nothing else (R120). -/
def cycle (s : State) : Result :=
  match s.fetchInstr with
  | .error e => raise e
  | .ok i => tickAfter (exec i s)

/-- The result of a Step (R127). -/
inductive StepResult where
  /-- An instruction executed and `pc` was written by its class rule. -/
  | ok
  /-- The instruction was `FX0A` and no key was pressed. -/
  | awaitingKey
  /-- `Error(kind, info)`. -/
  | error (e : Fault)
  /-- An instruction without a meaning; no instruction of this model answers so (R16). -/
  | unmodelled (r : Refusal)
  deriving DecidableEq, Repr

/-- The three outputs of a Step (R120). `result` and `tone` are outputs only: nothing stores them (R125, R32). -/
structure StepReport where
  state : State
  result : StepResult
  tone : Bool
  deriving DecidableEq, Repr

/-- Executing `i` now awaits a key: "Whether a Step will await a key is a function of `mem[pc]`, `mem[pc+1]` and `keypad`
alone" (10_state.md R32, 45_keypad_timers.md R232). -/
def State.awaitsKey (s : State) : Instr → Bool
  | .ldVxK _ => s.lowestKey.isNone
  | .cls | .ret | .jp _ | .call _ | .seImm _ _ | .sneImm _ _ | .seReg _ _ | .ldImm _ _ | .addImm _ _ | .ldReg _ _ => false
  | .orReg _ _ | .andReg _ _ | .xorReg _ _ | .addReg _ _ | .sub _ _ | .shr _ _ | .subn _ _ | .shl _ _ => false
  | .sneReg _ _ | .ldI _ | .jpV0 _ | .rnd _ _ | .drw _ _ _ | .skp _ | .sknp _ | .ldVxDt _ | .ldDtVx _ => false
  | .ldStVx _ | .addI _ | .ldF _ | .ldB _ | .ldMemVx _ | .ldVxMem _ => false

/-- Step with all its outputs; on an error the record is the one it began with and the tone is false (R120, R126, decisions
D4, D28; log 8). -/
def stepReport (s : State) : StepReport :=
  match s.fetchInstr with
  | .error e => { state := s, result := .error e, tone := false }
  | .ok i =>
    match exec i s with
    | .next t => { state := t.timerTick, result := if s.awaitsKey i then .awaitingKey else .ok, tone := t.tone }
    | .fault e => { state := s, result := .error e, tone := false }
    | .refused r => { state := s, result := .unmodelled r, tone := false }

end Sys2Proof.Machine
end

