-- ==== Sys2Proof/Machine/Step.lean ====
section
/-! DEFINITION. The machine's one step (40_step_cycle.md R120), and placing a word where it fetches. -/

namespace Sys2Proof.Machine

/-- `Step()`: one fetch–decode–execute cycle, then one timer tick. -/
def step (s : State) : Host.Outcome State Fault Refusal := cycle s

/-- `s` with the word of a table row stored where `step` fetches its next instruction. -/
def State.withFetchWord (s : State) (nbits w : Nat) : State := s.placeWord nbits w

end Sys2Proof.Machine
end

