-- ==== Sys2Proof/Machine/HostOps.lean ====
section
/-! DEFINITION. What the host can do to the machine between Steps (50_host_interface.md): ten operations, each one atomic
transition of the record or a read of it (R250). The host has no other move (R260, R261). -/

namespace Sys2Proof.Machine

/-- Load (R252): the bytes at `0x200`, and nothing else; more than 3584 bytes raise `ProgramTooLarge(len)`. -/
def State.load (s : State) (bytes : List Byte) : Result :=
  if Config.progMax < bytes.length then raise (.programTooLarge bytes.length)
  else .next (s.setMem (s.mem.writeBytes Config.progBase bytes))

/-- ClearDrawPending (R256). -/
def State.clearDrawPending (s : State) : State := { s with drawPending := false }

/-- KeypadWrite of one key (R257). -/
def State.keypadWrite (s : State) (k : Fin 16) (pressed : Bool) : State :=
  { s with keypad := s.keypad.set k.val pressed k.isLt }

/-- KeypadWrite of all sixteen keys at once (R257). -/
def State.keypadWriteAll (s : State) (keys : Vector Bool 16) : State := { s with keypad := keys }

/-- FramebufferRead (R255): the 2048 bits in row-major order, index `y × 64 + x` (decision D17). -/
def State.framebufferBits (s : State) : List Bool :=
  (List.range (Config.fbWidth * Config.fbHeight)).map (fun j => s.fb.pixel (j % Config.fbWidth) (j / Config.fbWidth))

/-- The operations of R250. Init and Reset take the machine's parameter `FONT` from `HostOp.apply`. -/
inductive HostOp where
  | init
  | reset
  | load (bytes : List Byte)
  | step
  | timerTick
  | framebufferRead
  | clearDrawPending
  | keypadWrite (k : Fin 16) (pressed : Bool)
  | keypadWriteAll (keys : Vector Bool 16)
  | timerRead
  | inspect
  deriving DecidableEq, Repr

/-- What an operation hands back to the host (R250, "result"). -/
inductive HostAnswer where
  /-- No result. -/
  | done
  /-- Load's `Ok`. -/
  | ok
  /-- Load's `Error`. -/
  | error (e : Fault)
  /-- Step's result and tone. -/
  | stepped (result : StepResult) (tone : Bool)
  /-- TimerTick's tone. -/
  | ticked (tone : Bool)
  /-- FramebufferRead's 2048 bits and `draw_pending`. -/
  | frame (bits : List Bool) (pending : Bool)
  /-- TimerRead's `DT` and `ST`. -/
  | timers (dt st : Byte)
  /-- Inspect: every field (R259). -/
  | record (s : State)
  deriving DecidableEq, Repr

/-- What Load answers and leaves: an error leaves the record as it was (R285, R13). -/
def State.loadAnswer (s : State) (bytes : List Byte) : State × HostAnswer :=
  match s.load bytes with
  | .next t => (t, .ok)
  | .fault e => (s, .error e)
  | .refused _ => (s, .done)

/-- Init and Reset (R251): every field of the spec at its reset value. The model's own count of random bytes goes on, so that
no byte is drawn twice (log 1). -/
def State.freshRecord (s : State) (font : Vector Byte 80) : State :=
  { State.initWith font with draws := s.draws }

/-- One host operation on the record of a machine whose parameter `FONT` is `font` (R250). -/
def HostOp.apply (font : Vector Byte 80) (s : State) : HostOp → State × HostAnswer
  | .init => (s.freshRecord font, .done)
  | .reset => (s.freshRecord font, .done)
  | .load bytes => s.loadAnswer bytes
  | .step => ((stepReport s).state, .stepped (stepReport s).result (stepReport s).tone)
  | .timerTick => (s.timerTick, .ticked s.tone)
  | .framebufferRead => (s, .frame s.framebufferBits s.drawPending)
  | .clearDrawPending => (s.clearDrawPending, .done)
  | .keypadWrite k pressed => (s.keypadWrite k pressed, .done)
  | .keypadWriteAll keys => (s.keypadWriteAll keys, .done)
  | .timerRead => (s, .timers s.dt s.st)
  | .inspect => (s, .record s)

end Sys2Proof.Machine
end

