-- ==== Sys2Proof/Safety.lean ====
section
/-! DEFINITION. The terms claims use: the invariant of the record, the listed errors of each instruction, the classes of the
program counter, which registers an instruction may write, and what "unchanged" means field by field. -/

namespace Sys2Proof

/-! ### Program-counter classes (40_step_cycle.md R123) -/

/-- The four classes of R123. -/
inductive PcClass where
  | sequential
  | skip
  | transfer
  | wait
  deriving DecidableEq, Repr

/-- The table of R123. -/
def Instr.pcClass : Instr → PcClass
  | .seImm _ _ | .sneImm _ _ | .seReg _ _ | .sneReg _ _ | .skp _ | .sknp _ => .skip
  | .jp _ | .call _ | .jpV0 _ | .ret => .transfer
  | .ldVxK _ => .wait
  | .cls | .ldImm _ _ | .addImm _ _ | .ldReg _ _ | .orReg _ _ | .andReg _ _ | .xorReg _ _ | .addReg _ _ => .sequential
  | .sub _ _ | .shr _ _ | .subn _ _ | .shl _ _ | .ldI _ | .rnd _ _ | .drw _ _ _ | .ldVxDt _ => .sequential
  | .ldDtVx _ | .ldStVx _ | .addI _ | .ldF _ | .ldB _ | .ldMemVx _ | .ldVxMem _ => .sequential

/-! ### Which general registers an instruction may write (10_state.md R21, R23) -/

/-- The destination register, with `VF` for the instructions that write the flag. `FX65` writes `V0` to `VX`. -/
def Instr.writesReg : Instr → Reg → Prop
  | .ldImm x _, k | .addImm x _, k | .rnd x _, k | .ldVxDt x, k | .ldVxK x, k => k = x
  | .ldReg x _, k | .orReg x _, k | .andReg x _, k | .xorReg x _, k => k = x
  | .addReg x _, k | .sub x _, k | .shr x _, k | .subn x _, k | .shl x _, k => k = x ∨ k = 0xF
  | .drw _ _ _, k | .addI _, k => k = 0xF
  | .ldVxMem x, k => k.toNat ≤ x.toNat
  | .cls, _ | .ret, _ | .jp _, _ | .call _, _ | .jpV0 _, _ | .seImm _ _, _ | .sneImm _ _, _ | .seReg _ _, _ => False
  | .sneReg _ _, _ | .skp _, _ | .sknp _, _ | .ldDtVx _, _ | .ldStVx _, _ | .ldI _, _ | .ldF _, _ | .ldB _, _ => False
  | .ldMemVx _, _ => False

end Sys2Proof

namespace Sys2Proof.Machine

/-! ### The invariant of every operation (10_state.md R24, R25, R26, R60) -/

/-- Memory is canonical, `pc ≤ 0xFFF`, `I ≤ 0xFFF`, and every live stack entry is at most `0xFFF`. (`sp ≤ 16` and the
widths of the registers are carried by the types.) -/
abbrev State.Inv (s : State) : Prop :=
  s.mem.wf ∧ s.pc.toNat ≤ 0xFFF ∧ s.idx.toNat ≤ 0xFFF ∧ ∀ k : Fin 16, k.val < s.sp.val → s.stack[k].toNat ≤ 0xFFF

/-! ### Errors of an instruction (60_exceptions.md R280, R284, R287) -/

/-- `OutOfBounds(top)` when the highest address an instruction touches is above `0xFFF`. -/
def pastTop (top : Nat) : Option Fault :=
  if 0xFFF < top then some (.outOfBounds top) else none

/-- `OutOfBounds(k)` when a key index is above 15. -/
def badKey (k : Byte) : Option Fault :=
  if 15 < k.toNat then some (.outOfBounds k.toNat) else none

/-- The complete list of R280, R284 and R287: the one error an instruction can raise in execute, or none. -/
def State.errorOf (s : State) : Instr → Option Fault
  | .call _ => if s.sp.val = 16 then some .stackOverflow else none
  | .ret => if s.sp.val = 0 then some .stackUnderflow else none
  | .drw _ _ n => if n.toNat = 0 then none else pastTop (s.idx.toNat + n.toNat - 1)
  | .ldB _ => pastTop (s.idx.toNat + 2)
  | .ldMemVx x | .ldVxMem x => pastTop (s.idx.toNat + x.toNat)
  | .skp x | .sknp x => badKey (s.getV x)
  | .cls | .jp _ | .jpV0 _ | .seImm _ _ | .sneImm _ _ | .seReg _ _ | .sneReg _ _ | .ldImm _ _ | .addImm _ _ => none
  | .ldReg _ _ | .orReg _ _ | .andReg _ _ | .xorReg _ _ | .addReg _ _ | .sub _ _ | .shr _ _ | .subn _ _ | .shl _ _ => none
  | .ldI _ | .rnd _ _ | .ldVxDt _ | .ldVxK _ | .ldDtVx _ | .ldStVx _ | .addI _ | .ldF _ => none

/-- The numeric label of an error kind (R280, decision D14). -/
def Fault.code : Fault → Nat
  | .unknownOpcode _ => 1
  | .stackOverflow => 2
  | .stackUnderflow => 3
  | .outOfBounds _ => 4
  | .programTooLarge _ => 5

/-! ### What the program-counter classes compute (40_step_cycle.md R123) -/

/-- No key is pressed (R232). -/
def State.NoKey (s : State) : Prop := ∀ k : Fin 16, s.keypad[k] = false

/-- The condition of a skip instruction (R144 to R147, R230, R231); no other instruction skips. -/
def State.SkipCondition (s : State) : Instr → Prop
  | .seImm x nn => s.getV x = nn
  | .sneImm x nn => s.getV x ≠ nn
  | .seReg x y => s.getV x = s.getV y
  | .sneReg x y => s.getV x ≠ s.getV y
  | .skp x => ∃ k : Fin 16, k.val = (s.getV x).toNat ∧ s.keypad[k] = true
  | .sknp x => ∃ k : Fin 16, k.val = (s.getV x).toNat ∧ s.keypad[k] = false
  | .cls | .ret | .jp _ | .call _ | .jpV0 _ | .ldImm _ _ | .addImm _ _ | .ldReg _ _ | .orReg _ _ | .andReg _ _ => False
  | .xorReg _ _ | .addReg _ _ | .sub _ _ | .shr _ _ | .subn _ _ | .shl _ _ | .ldI _ | .rnd _ _ | .drw _ _ _ => False
  | .ldVxDt _ | .ldVxK _ | .ldDtVx _ | .ldStVx _ | .addI _ | .ldF _ | .ldB _ | .ldMemVx _ | .ldVxMem _ => False

/-- The address a transfer instruction computes, before the reduction modulo 4096 (R140 to R143); 0 for the others. -/
def State.transferTarget (s : State) : Instr → Nat
  | .jp nnn | .call nnn => nnn.toNat
  | .jpV0 nnn => nnn.toNat + (s.getV 0).toNat
  | .ret => (s.stack.toList.getD (s.sp.val - 1) 0).toNat
  | .cls | .seImm _ _ | .sneImm _ _ | .seReg _ _ | .sneReg _ _ | .skp _ | .sknp _ | .ldImm _ _ | .addImm _ _ => 0
  | .ldReg _ _ | .orReg _ _ | .andReg _ _ | .xorReg _ _ | .addReg _ _ | .sub _ _ | .shr _ _ | .subn _ _ | .shl _ _ => 0
  | .ldI _ | .rnd _ _ | .drw _ _ _ | .ldVxDt _ | .ldVxK _ | .ldDtVx _ | .ldStVx _ | .addI _ | .ldF _ | .ldB _ => 0
  | .ldMemVx _ | .ldVxMem _ => 0

/-! ### Frames: what stays as it was from `s` to `t` -/

/-- Every register outside `xs`. -/
def Frame.RegsExcept (xs : List Reg) (s t : State) : Prop := ∀ k : Reg, k ∉ xs → t.getV k = s.getV k

/-- Every byte of memory. -/
def Frame.Mem (s t : State) : Prop := ∀ a : Nat, t.mem.read a = s.mem.read a

/-- Every byte of memory outside the `n` bytes at `base`. -/
def Frame.MemOutside (base n : Nat) (s t : State) : Prop :=
  ∀ a : Nat, (a < base ∨ base + n ≤ a) → t.mem.read a = s.mem.read a

/-- The index register. -/
def Frame.Idx (s t : State) : Prop := t.idx = s.idx

/-- The stack pointer and all sixteen stack entries, dead ones too. -/
def Frame.Stack (s t : State) : Prop := t.sp = s.sp ∧ t.stack = s.stack

/-- Both timers. -/
def Frame.Timers (s t : State) : Prop := t.dt = s.dt ∧ t.st = s.st

/-- The framebuffer and the draw-pending flag. -/
def Frame.Picture (s t : State) : Prop := t.fb = s.fb ∧ t.drawPending = s.drawPending

/-- The keypad. -/
def Frame.Keypad (s t : State) : Prop := t.keypad = s.keypad

/-- The model's count of random bytes. -/
def Frame.Draws (s t : State) : Prop := t.draws = s.draws

/-- Only the registers of `xs` and the program counter may differ. -/
def Frame.OnlyRegs (xs : List Reg) (s t : State) : Prop :=
  Frame.RegsExcept xs s t ∧ Frame.Mem s t ∧ Frame.Idx s t ∧ Frame.Stack s t ∧ Frame.Timers s t ∧ Frame.Picture s t ∧
    Frame.Keypad s t ∧ Frame.Draws s t

/-- The program counter is two further on, modulo 4096 (R123, class sequential). -/
def PcSequential (s t : State) : Prop := t.pc.toNat = (s.pc.toNat + 2) % 4096

/-- The word `n` and the instruction `i` are each other's encoding (30_encoding.md R91, R95). -/
def EncodedAs (i : Instr) (n : Nat) : Prop := (encode i).toNat = n ∧ decode (BitVec.ofNat 16 n) = some i

/-- `i` completes; where `c` holds `pc` moves on by 4, else by 2, and nothing else changes (R123, class skip). -/
def SkipsWhen (i : Instr) (s : State) (c : Prop) : Prop :=
  ∃ t, exec i s = .next t ∧ (c → t.pc.toNat = (s.pc.toNat + 4) % 4096) ∧ (¬ c → t.pc.toNat = (s.pc.toNat + 2) % 4096) ∧
    Frame.OnlyRegs [] s t

/-- `i` completes and leaves the number `n` in `VF`. -/
def LeavesVF (i : Instr) (s : State) (n : Nat) : Prop :=
  ∃ t, exec i s = .next t ∧ (t.getV 0xF).toNat = n ∧ Frame.RegsExcept [0xF] s t

/-! ### Sprites (44_display.md R211 to R214) -/

/-- Pixel `(px, py)` of the screen lies under a 1 bit of the `n`-row sprite at address `i`, drawn from `(x0, y0)` with
wraparound: some row `r` and column offset `c` name it, and bit `7 − c` of byte `r` is 1. -/
def UnderSprite (m : Memory) (i n x0 y0 px py : Nat) : Prop :=
  ∃ r c : Nat, r < n ∧ c < 8 ∧ (x0 + c) % 64 = px ∧ (y0 + r) % 32 = py ∧ (m.read (i + r)).getLsbD (7 - c) = true

/-! ### Runs -/

/-- `n` successful Steps lead from `s` to `t`, and none of them executes `FX15`. -/
def RunsWithoutSettingDelay : Nat → State → State → Prop
  | 0, s, t => t = s
  | n + 1, s, t =>
    ∃ u : State, (∀ x : Reg, s.fetchInstr ≠ .ok (.ldDtVx x)) ∧ step s = .next u ∧ RunsWithoutSettingDelay n u t

/-- Two records that differ at most in stack entries at or above `sp` (10_state.md R26, dead entries). -/
def State.SameButDeadStack (s t : State) : Prop :=
  t = { s with stack := t.stack } ∧ ∀ k : Fin 16, k.val < s.sp.val → t.stack[k] = s.stack[k]

end Sys2Proof.Machine
end

