-- ==== Sys2Proof/Certificates/Slice0/Obligations.lean ====
section
/-! DEFINITION. The statements for the provers, from the numbered rules of the spec. Where a statement rests on a decision
of the spec (92_eei_decisions.md), on general knowledge the spec marks as such, or on a choice of this model, its docstring
says so and names it. -/

open Sys2Proof Sys2Proof.Machine

/-! ## Encoding (30_encoding.md) -/

/-- The words of 95_test_vectors.md S7, one for each pattern of the opcode table, decode to the instruction the pattern
names, and S7's unknown words decode to nothing. -/
def Obligations.SampleWordsDecode : Prop :=
  (decode 0x00E0 = some .cls ∧ decode 0x00EE = some .ret ∧ decode 0x1234 = some (.jp 0x234) ∧
    decode 0x2234 = some (.call 0x234) ∧ decode 0x3A12 = some (.seImm 0xA 0x12) ∧ decode 0x4A12 = some (.sneImm 0xA 0x12) ∧
    decode 0x5AB0 = some (.seReg 0xA 0xB) ∧ decode 0x6A12 = some (.ldImm 0xA 0x12) ∧ decode 0x7A12 = some (.addImm 0xA 0x12)) ∧
  (decode 0x8AB0 = some (.ldReg 0xA 0xB) ∧ decode 0x8AB1 = some (.orReg 0xA 0xB) ∧ decode 0x8AB2 = some (.andReg 0xA 0xB) ∧
    decode 0x8AB3 = some (.xorReg 0xA 0xB) ∧ decode 0x8AB4 = some (.addReg 0xA 0xB) ∧ decode 0x8AB5 = some (.sub 0xA 0xB) ∧
    decode 0x8AB6 = some (.shr 0xA 0xB) ∧ decode 0x8AB7 = some (.subn 0xA 0xB) ∧ decode 0x8ABE = some (.shl 0xA 0xB) ∧
    decode 0x9AB0 = some (.sneReg 0xA 0xB)) ∧
  (decode 0xA123 = some (.ldI 0x123) ∧ decode 0xB123 = some (.jpV0 0x123) ∧ decode 0xCA12 = some (.rnd 0xA 0x12) ∧
    decode 0xDAB5 = some (.drw 0xA 0xB 5) ∧ decode 0xEA9E = some (.skp 0xA) ∧ decode 0xEAA1 = some (.sknp 0xA)) ∧
  (decode 0xFA07 = some (.ldVxDt 0xA) ∧ decode 0xFA0A = some (.ldVxK 0xA) ∧ decode 0xFA15 = some (.ldDtVx 0xA) ∧
    decode 0xFA18 = some (.ldStVx 0xA) ∧ decode 0xFA1E = some (.addI 0xA) ∧ decode 0xFA29 = some (.ldF 0xA) ∧
    decode 0xFA33 = some (.ldB 0xA) ∧ decode 0xFA55 = some (.ldMemVx 0xA) ∧ decode 0xFA65 = some (.ldVxMem 0xA)) ∧
  ([0x0000, 0x00E1, 0x00FF, 0x0123, 0x5AB1, 0x5ABF, 0x8AB8, 0x8AB9, 0x8ABA, 0x8ABB, 0x8ABC, 0x8ABD, 0x8ABF, 0x9AB1,
    0xE000, 0xEA9F, 0xEAA0, 0xF000, 0xFA08, 0xFA1F, 0xFA56, 0xFAFF, 0xFFFF] : List Word).all
      (fun w => (decode w).isNone) = true

/-- 30_encoding.md section 5: "For every row, decode(encode(operands)) returns the same row and operands". -/
def Obligations.DecodeOfEncode : Prop :=
  ∀ i : Instr, decode (encode i) = some i

/-- 30_encoding.md section 5: "encode(decode(`w`)) = `w` for every known word". -/
def Obligations.EncodeOfDecode : Prop :=
  ∀ (w : Word) (i : Instr), decode w = some i → encode i = w

/-- R94. A word decodes to the instruction of the table whose `mask` and `match` it satisfies, at most one row matches,
and if none matches Step raises `UnknownOpcode(w)`. -/
def Obligations.DecodeFollowsOpcodeMap : Prop :=
  ∀ w : Word,
    (∀ i, decode w = some i → i.row ∈ opcodeRows ∧ w &&& i.row.mask = i.row.bits ∧
      ∀ r ∈ opcodeRows, w &&& r.mask = r.bits → r = i.row) ∧
    (decode w = none → (∀ r ∈ opcodeRows, w &&& r.mask ≠ r.bits) ∧
      ∀ s : State, s.fetch = .ok w → step s = .fault (.unknownOpcode w))

/-- 30_encoding.md section 4: the unknown words are exactly the six sets (a) to (f). -/
def Obligations.UnknownWordsAreTheSixSets : Prop :=
  ∀ w : Word, decode w = none ↔
    (w.toNat ≤ 0x0FFF ∧ w.toNat ≠ 0x00E0 ∧ w.toNat ≠ 0x00EE) ∨
    (w.toNat / 4096 = 0x5 ∧ w.toNat % 16 ≠ 0) ∨
    (w.toNat / 4096 = 0x8 ∧ w.toNat % 16 ∈ [0x8, 0x9, 0xA, 0xB, 0xC, 0xD, 0xF]) ∨
    (w.toNat / 4096 = 0x9 ∧ w.toNat % 16 ≠ 0) ∨
    (w.toNat / 4096 = 0xE ∧ w.toNat % 256 ∉ [0x9E, 0xA1]) ∨
    (w.toNat / 4096 = 0xF ∧ w.toNat % 256 ∉ [0x07, 0x0A, 0x15, 0x18, 0x1E, 0x29, 0x33, 0x55, 0x65])

/-! ## The Step cycle (40_step_cycle.md) -/

/-- R121. Fetch reads the two bytes at `pc`, big-endian, and changes nothing; it fails with `OutOfBounds(pc + 1)` when
`pc + 1` is past `0xFFF`, which for a 12-bit `pc` is exactly `pc = 0xFFF` with info `0x1000`. -/
def Obligations.FetchReadsBigEndianWord : Prop :=
  ∀ s : State,
    (s.pc.toNat + 1 ≤ 0xFFF → ∃ w : Word, s.fetch = .ok w ∧
      w.toNat = (s.mem.read s.pc.toNat).toNat * 256 + (s.mem.read (s.pc.toNat + 1)).toNat) ∧
    (0xFFF < s.pc.toNat + 1 → s.fetch = .error (.outOfBounds (s.pc.toNat + 1)) ∧
      step s = .fault (.outOfBounds (s.pc.toNat + 1))) ∧
    (s.pc.toNat ≤ 0xFFF → ∀ e : Fault, s.fetch = .error e ↔ s.pc.toNat = 0xFFF ∧ e = .outOfBounds 0x1000)

/-- 40_step_cycle.md section 1 (the pseudocode of Step). When the bytes at `pc` decode to `i`, Step is `exec i` followed by
one timer tick; an error of `exec` ends the Step as it is. -/
def Obligations.StepRunsTheDecodedInstruction : Prop :=
  ∀ (s : State) (i : Instr), s.pc.toNat + 1 ≤ 0xFFF →
    decode (wordOfBytes (s.mem.read s.pc.toNat) (s.mem.read (s.pc.toNat + 1))) = some i →
    step s = match exec i s with
      | .next t => .next t.timerTick
      | .fault e => .fault e
      | .refused r => .refused r

/-- 40_step_cycle.md section 5. After a successful Step both timers are `max(x − 1, 0)` of the values execute left, every
other field is as execute left it. It rests on the spec's decisions D4 and D13 for when the tick occurs. -/
def Obligations.StepTicksBothTimersOnce : Prop :=
  ∀ s t : State, step s = .next t → ∃ (i : Instr) (u : State),
    s.pc.toNat + 1 ≤ 0xFFF ∧
    decode (wordOfBytes (s.mem.read s.pc.toNat) (s.mem.read (s.pc.toNat + 1))) = some i ∧
    exec i s = .next u ∧
    t.dt.toNat = u.dt.toNat - 1 ∧ t.st.toNat = u.st.toNat - 1 ∧ t = { u with dt := t.dt, st := t.st }

/-- 60_exceptions.md section 1. A fetched unknown word raises `UnknownOpcode(w)` before any effect; the record is unchanged,
no tick. That the tone is false then is the spec's decision D28 (40_step_cycle.md section 5; log 8, DESIGN CHOICE). -/
def Obligations.UnknownWordRaisesBeforeAnyEffect : Prop :=
  ∀ (s : State) (w : Word), s.fetch = .ok w → decode w = none →
    step s = .fault (.unknownOpcode w) ∧
      stepReport s = { state := s, result := .error (.unknownOpcode w), tone := false }

/-- 60_exceptions.md section 1. `StackOverflow` comes from `2NNN` at `sp = 16` and from nothing else, `StackUnderflow` from
`00EE` at `sp = 0` and from nothing else; the record is then unchanged. That the tone is false then is the spec's decision D28
(40_step_cycle.md section 5; log 8, DESIGN CHOICE). -/
def Obligations.StackErrorsComeFromCallAndReturnOnly : Prop :=
  (∀ (i : Instr) (s : State),
    (exec i s = .fault .stackOverflow ↔ (∃ nnn, i = .call nnn) ∧ s.sp.val = 16) ∧
    (exec i s = .fault .stackUnderflow ↔ i = .ret ∧ s.sp.val = 0)) ∧
  ∀ s : State,
    (step s = .fault .stackOverflow ↔ (∃ nnn, s.fetchInstr = .ok (.call nnn)) ∧ s.sp.val = 16) ∧
    (step s = .fault .stackUnderflow ↔ s.fetchInstr = .ok .ret ∧ s.sp.val = 0) ∧
    (step s = .fault .stackOverflow → stepReport s = { state := s, result := .error .stackOverflow, tone := false }) ∧
    (step s = .fault .stackUnderflow → stepReport s = { state := s, result := .error .stackUnderflow, tone := false })

/-- 60_exceptions.md sections 1 and 3: an instruction raises an error exactly when the list says so, and then that one. It
rests on the spec's decisions D5 (highest address first), D6 (key index) and D14 (info). -/
def Obligations.ErrorsAreExactlyTheListed : Prop :=
  ∀ (i : Instr) (s : State) (e : Fault), exec i s = .fault e ↔ s.errorOf i = some e

/-- 00_scope.md section 7: "all 34 instructions have a meaning for every operand value, except where a rule raises an
error". Where the list of errors (decisions D5, D6) names none, the instruction answers a next state; none is refused. -/
def Obligations.EveryInstructionHasAMeaning : Prop :=
  (∀ (i : Instr) (s : State), s.errorOf i = none → ∃ t, exec i s = .next t) ∧
  (∀ (i : Instr) (s : State) (r : Refusal), exec i s ≠ .refused r) ∧
  ∀ (s : State) (r : Refusal), step s ≠ .refused r

/-- 40_step_cycle.md section 6 (decisions D4, D28): a Step that raises an error reports it with the record as it was and
`tone = false`, and the reports are of the same Steps as `step`. -/
def Obligations.FailedStepKeepsTheRecord : Prop :=
  ∀ (s : State) (e : Fault),
    (step s = .fault e ↔ (stepReport s).result = .error e) ∧
    (step s = .fault e → (stepReport s).state = s ∧ (stepReport s).tone = false) ∧
    ∀ t, step s = .next t → (stepReport s).state = t ∧ (stepReport s).result ∈ [StepResult.ok, .awaitingKey]

/-- 40_step_cycle.md section 6 and 45_keypad_timers.md section 2 (decision D13): the result is `AwaitingKey` exactly when
the instruction is `FX0A` and no key is pressed; nothing changes then but by the timer tick. -/
def Obligations.AwaitingKeyChangesOnlyTimers : Prop :=
  ∀ s : State,
    ((stepReport s).result = .awaitingKey ↔ (∃ x, s.fetchInstr = .ok (.ldVxK x)) ∧ s.NoKey) ∧
    ((stepReport s).result = .awaitingKey →
      (stepReport s).state = s.timerTick ∧ step s = .next s.timerTick ∧ s.timerTick.pc = s.pc)

/-- 40_step_cycle.md section 5: `tone` is true exactly when `ST > 0` immediately before the tick's decrement; false on a
Step that raises an error (decision D28). -/
def Obligations.ToneIsSoundTimerBeforeTick : Prop :=
  ∀ s : State, (stepReport s).tone = true ↔
    ∃ (i : Instr) (u : State), s.fetchInstr = .ok i ∧ exec i s = .next u ∧ 0 < u.st.toNat

/-- R123. Every instruction belongs to exactly one program-counter class, and `pc` after it is what the class says. -/
def Obligations.ProgramCounterClasses : Prop :=
  ∀ (i : Instr) (s t : State), exec i s = .next t →
    match i.pcClass with
    | .sequential => t.pc.toNat = (s.pc.toNat + 2) % 4096
    | .skip =>
      (s.SkipCondition i → t.pc.toNat = (s.pc.toNat + 4) % 4096) ∧
        (¬ s.SkipCondition i → t.pc.toNat = (s.pc.toNat + 2) % 4096)
    | .transfer => t.pc.toNat = s.transferTarget i % 4096
    | .wait => (s.NoKey → t.pc = s.pc) ∧ (¬ s.NoKey → t.pc.toNat = (s.pc.toNat + 2) % 4096)

/-! ## Register and ALU instructions (42_alu.md) -/

/-- R160, R162. `6XNN` and `8XY0` copy a value into `VX`; no flag, no error. -/
def Obligations.LoadsCopyIntoRegister : Prop :=
  (∀ (x : Reg) (nn : Byte) (s : State), EncodedAs (.ldImm x nn) (0x6000 + 0x100 * x.toNat + nn.toNat) ∧
    ∃ t, exec (.ldImm x nn) s = .next t ∧ t.getV x = nn ∧ PcSequential s t ∧ Frame.OnlyRegs [x] s t) ∧
  ∀ (x y : Reg) (s : State), EncodedAs (.ldReg x y) (0x8000 + 0x100 * x.toNat + 0x10 * y.toNat) ∧
    ∃ t, exec (.ldReg x y) s = .next t ∧ t.getV x = s.getV y ∧ PcSequential s t ∧ Frame.OnlyRegs [x] s t

/-- R161. `7XNN` adds modulo 256 and writes no flag: `VF` changes only as the destination. -/
def Obligations.AddImmediateWritesNoFlag : Prop :=
  ∀ (x : Reg) (nn : Byte) (s : State), EncodedAs (.addImm x nn) (0x7000 + 0x100 * x.toNat + nn.toNat) ∧
    ∃ t, exec (.addImm x nn) s = .next t ∧ (t.getV x).toNat = ((s.getV x).toNat + nn.toNat) % 256 ∧
      PcSequential s t ∧ Frame.OnlyRegs [x] s t

/-- R163, R164, R165. The three bitwise operations, on all 8 bits; `VF` changes only as the destination. -/
def Obligations.LogicOperationsWriteNoFlag : Prop :=
  ∀ (x y : Reg) (s : State),
    (EncodedAs (.orReg x y) (0x8001 + 0x100 * x.toNat + 0x10 * y.toNat) ∧
      ∃ t, exec (.orReg x y) s = .next t ∧
        (∀ j < 8, (t.getV x).toNat.testBit j = ((s.getV x).toNat.testBit j || (s.getV y).toNat.testBit j)) ∧
        PcSequential s t ∧ Frame.OnlyRegs [x] s t) ∧
    (EncodedAs (.andReg x y) (0x8002 + 0x100 * x.toNat + 0x10 * y.toNat) ∧
      ∃ t, exec (.andReg x y) s = .next t ∧
        (∀ j < 8, (t.getV x).toNat.testBit j = ((s.getV x).toNat.testBit j && (s.getV y).toNat.testBit j)) ∧
        PcSequential s t ∧ Frame.OnlyRegs [x] s t) ∧
    (EncodedAs (.xorReg x y) (0x8003 + 0x100 * x.toNat + 0x10 * y.toNat) ∧
      ∃ t, exec (.xorReg x y) s = .next t ∧
        (∀ j < 8, (t.getV x).toNat.testBit j = ((s.getV x).toNat.testBit j ^^ (s.getV y).toNat.testBit j)) ∧
        PcSequential s t ∧ Frame.OnlyRegs [x] s t)

/-- R166. `8XY4`: the sum modulo 256 in `VX`, then the carry of the unreduced sum in `VF`; with `X = 0xF` the carry
remains and the sum is lost. -/
def Obligations.AddWritesCarry : Prop :=
  ∀ (x y : Reg) (s : State), EncodedAs (.addReg x y) (0x8004 + 0x100 * x.toNat + 0x10 * y.toNat) ∧
    ∃ t, exec (.addReg x y) s = .next t ∧
      (x ≠ 0xF → (t.getV x).toNat = ((s.getV x).toNat + (s.getV y).toNat) % 256) ∧
      t.getV 0xF = (if 255 < (s.getV x).toNat + (s.getV y).toNat then 1 else 0) ∧
      PcSequential s t ∧ Frame.OnlyRegs [x, 0xF] s t

/-- R167, R169. `8XY5` and `8XY7`: the difference modulo 256 in `VX`, then 1 in `VF` when there is no borrow, else 0; with
`X = 0xF` the flag remains. -/
def Obligations.SubtractionsWriteNoBorrow : Prop :=
  ∀ (x y : Reg) (s : State),
    (EncodedAs (.sub x y) (0x8005 + 0x100 * x.toNat + 0x10 * y.toNat) ∧
      ∃ t, exec (.sub x y) s = .next t ∧
        (x ≠ 0xF → (t.getV x).toNat =
          if (s.getV y).toNat ≤ (s.getV x).toNat then (s.getV x).toNat - (s.getV y).toNat
          else (s.getV x).toNat + 256 - (s.getV y).toNat) ∧
        t.getV 0xF = (if (s.getV x).toNat < (s.getV y).toNat then 0 else 1) ∧
        PcSequential s t ∧ Frame.OnlyRegs [x, 0xF] s t) ∧
    (EncodedAs (.subn x y) (0x8007 + 0x100 * x.toNat + 0x10 * y.toNat) ∧
      ∃ t, exec (.subn x y) s = .next t ∧
        (x ≠ 0xF → (t.getV x).toNat =
          if (s.getV x).toNat ≤ (s.getV y).toNat then (s.getV y).toNat - (s.getV x).toNat
          else (s.getV y).toNat + 256 - (s.getV x).toNat) ∧
        t.getV 0xF = (if (s.getV y).toNat < (s.getV x).toNat then 0 else 1) ∧
        PcSequential s t ∧ Frame.OnlyRegs [x, 0xF] s t)

/-- 42_alu.md section 2 (`8XY6`, `8XYE`): `VX` is shifted by one, whatever `Y` is; `VF` is the bit shifted out, unless
`X = 0xF`, where the shifted value remains (the spec's decision D1). -/
def Obligations.ShiftsWriteBitOut : Prop :=
  ∀ (x y : Reg) (s : State),
    (EncodedAs (.shr x y) (0x8006 + 0x100 * x.toNat + 0x10 * y.toNat) ∧
      (∀ z : Reg, exec (.shr x z) s = exec (.shr x y) s) ∧
      ∃ t, exec (.shr x y) s = .next t ∧ (t.getV x).toNat = (s.getV x).toNat / 2 ∧
        (x ≠ 0xF → (t.getV 0xF).toNat = (s.getV x).toNat % 2) ∧ PcSequential s t ∧ Frame.OnlyRegs [x, 0xF] s t) ∧
    (EncodedAs (.shl x y) (0x800E + 0x100 * x.toNat + 0x10 * y.toNat) ∧
      (∀ z : Reg, exec (.shl x z) s = exec (.shl x y) s) ∧
      ∃ t, exec (.shl x y) s = .next t ∧ (t.getV x).toNat = (s.getV x).toNat * 2 % 256 ∧
        (x ≠ 0xF → (t.getV 0xF).toNat = (s.getV x).toNat / 128) ∧ PcSequential s t ∧ Frame.OnlyRegs [x, 0xF] s t)

/-- 42_alu.md section 4, the table of `X = 0xF` (the spec's decision D1): what is in `VF` afterwards. The random byte is
the model's free value (log 1). -/
def Obligations.FlagRegisterAsDestination : Prop :=
  ∀ (y : Reg) (nn : Byte) (s : State) (f b : Nat), f = (s.getV 0xF).toNat → b = (s.getV y).toNat →
    LeavesVF (.addReg 0xF y) s (if 255 < f + b then 1 else 0) ∧
    LeavesVF (.sub 0xF y) s (if f < b then 0 else 1) ∧
    LeavesVF (.subn 0xF y) s (if b < f then 0 else 1) ∧
    LeavesVF (.shr 0xF y) s (f / 2) ∧
    LeavesVF (.shl 0xF y) s (f * 2 % 256) ∧
    LeavesVF (.ldReg 0xF y) s b ∧
    LeavesVF (.orReg 0xF y) s (f ||| b) ∧
    LeavesVF (.andReg 0xF y) s (f &&& b) ∧
    LeavesVF (.xorReg 0xF y) s (f ^^^ b) ∧
    LeavesVF (.ldImm 0xF nn) s nn.toNat ∧
    LeavesVF (.addImm 0xF nn) s ((f + nn.toNat) % 256) ∧
    LeavesVF (.rnd 0xF nn) s ((Config.rnd s.draws).toNat &&& nn.toNat)

/-- 42_alu.md section 3 (`CXNN`): `VX` is a random byte AND `NN`, so a submask of `NN`. The byte is the model's free value
`Config.rnd` at the count of draws (log 1), about which nothing is known. -/
def Obligations.RandomByteIsMasked : Prop :=
  ∀ (x : Reg) (nn : Byte) (s : State), EncodedAs (.rnd x nn) (0xC000 + 0x100 * x.toNat + nn.toNat) ∧
    ∃ t, exec (.rnd x nn) s = .next t ∧ t.getV x = Config.rnd s.draws &&& nn ∧ t.getV x &&& nn = t.getV x ∧
      t.draws = s.draws + 1 ∧ PcSequential s t ∧ Frame.RegsExcept [x] s t ∧ Frame.Mem s t ∧ Frame.Idx s t ∧
      Frame.Stack s t ∧ Frame.Timers s t ∧ Frame.Picture s t ∧ Frame.Keypad s t

/-! ## Control transfer (41_flow.md) -/

/-- R141. `1NNN` sets `pc` to `NNN` and nothing else; to its own address it leaves the record as it was; a target of
`0xFFF` makes the next fetch raise `OutOfBounds`. -/
def Obligations.JumpGoesToAddress : Prop :=
  ∀ (nnn : Addr) (s : State), EncodedAs (.jp nnn) (0x1000 + nnn.toNat) ∧
    ∃ t, exec (.jp nnn) s = .next t ∧ t.pc.toNat = nnn.toNat ∧ Frame.OnlyRegs [] s t ∧
      (nnn.toNat = s.pc.toNat → t = s) ∧ (nnn = 0xFFF → step t = .fault (.outOfBounds 0x1000))

/-- 41_flow.md section 1 (`BNNN`): `pc` is `NNN + V0` modulo 4096 (the wrap is the spec's decision D3). -/
def Obligations.JumpWithOffsetAddsV0 : Prop :=
  ∀ (nnn : Addr) (s : State), EncodedAs (.jpV0 nnn) (0xB000 + nnn.toNat) ∧
    ∃ t, exec (.jpV0 nnn) s = .next t ∧ t.pc.toNat = (nnn.toNat + (s.getV 0).toNat) % 4096 ∧ Frame.OnlyRegs [] s t

/-- 41_flow.md section 1 (`2NNN`): with room on the stack, `(pc + 2) mod 4096` is pushed (the spec's decision D2) and `pc`
is `NNN`; at `sp = 16` it raises `StackOverflow`. -/
def Obligations.CallPushesReturnAddress : Prop :=
  ∀ (nnn : Addr) (s : State), EncodedAs (.call nnn) (0x2000 + nnn.toNat) ∧
    (s.sp.val < 16 → ∃ t, exec (.call nnn) s = .next t ∧ t.pc.toNat = nnn.toNat ∧ t.sp.val = s.sp.val + 1 ∧
      (∀ k : Fin 16, k.val = s.sp.val → t.stack[k].toNat = (s.pc.toNat + 2) % 4096) ∧
      (∀ k : Fin 16, k.val ≠ s.sp.val → t.stack[k] = s.stack[k]) ∧
      Frame.RegsExcept [] s t ∧ Frame.Mem s t ∧ Frame.Idx s t ∧ Frame.Timers s t ∧ Frame.Picture s t ∧ Frame.Keypad s t ∧
      Frame.Draws s t) ∧
    (s.sp.val = 16 → exec (.call nnn) s = .fault .stackOverflow)

/-- R140. `00EE`: the top entry goes to `pc`, `sp` falls by one, the entries stay; if the entry is `0xFFF` the next fetch
raises `OutOfBounds`; at `sp = 0` it raises `StackUnderflow`. -/
def Obligations.ReturnPopsIntoPc : Prop :=
  ∀ s : State, EncodedAs .ret 0x00EE ∧
    (0 < s.sp.val → ∃ t, exec .ret s = .next t ∧ t.sp.val + 1 = s.sp.val ∧ t.stack = s.stack ∧
      (∀ k : Fin 16, k.val + 1 = s.sp.val → t.pc.toNat = s.stack[k].toNat % 4096 ∧
        (s.stack[k] = 0xFFF → step t = .fault (.outOfBounds 0x1000))) ∧
      Frame.RegsExcept [] s t ∧ Frame.Mem s t ∧ Frame.Idx s t ∧ Frame.Timers s t ∧ Frame.Picture s t ∧ Frame.Keypad s t ∧
      Frame.Draws s t) ∧
    (s.sp.val = 0 → exec .ret s = .fault .stackUnderflow)

/-- R144, R145, R146, R147. The four register-compare skips: `pc + 4` when the condition holds, else `pc + 2`; no register
is written. -/
def Obligations.CompareSkips : Prop :=
  (∀ (x : Reg) (nn : Byte) (s : State),
    (EncodedAs (.seImm x nn) (0x3000 + 0x100 * x.toNat + nn.toNat) ∧ SkipsWhen (.seImm x nn) s (s.getV x = nn)) ∧
    (EncodedAs (.sneImm x nn) (0x4000 + 0x100 * x.toNat + nn.toNat) ∧ SkipsWhen (.sneImm x nn) s (s.getV x ≠ nn))) ∧
  ∀ (x y : Reg) (s : State),
    (EncodedAs (.seReg x y) (0x5000 + 0x100 * x.toNat + 0x10 * y.toNat) ∧
      SkipsWhen (.seReg x y) s (s.getV x = s.getV y)) ∧
    (EncodedAs (.sneReg x y) (0x9000 + 0x100 * x.toNat + 0x10 * y.toNat) ∧
      SkipsWhen (.sneReg x y) s (s.getV x ≠ s.getV y))

/-! ## Index register and memory (43_index_memory.md) -/

/-- R190. `ANNN`: `I` is `NNN`; no memory access, no error. -/
def Obligations.LoadIndexImmediate : Prop :=
  ∀ (nnn : Addr) (s : State), EncodedAs (.ldI nnn) (0xA000 + nnn.toNat) ∧
    ∃ t, exec (.ldI nnn) s = .next t ∧ t.idx.toNat = nnn.toNat ∧ PcSequential s t ∧ Frame.RegsExcept [] s t ∧
      Frame.Mem s t ∧ Frame.Stack s t ∧ Frame.Timers s t ∧ Frame.Picture s t ∧ Frame.Keypad s t ∧ Frame.Draws s t

/-- 43_index_memory.md section 1 (`FX1E`): `VF` is 1 when `I + VX > 0xFFF` and else 0, `I` is the sum modulo 4096, both
from the old `VX` even when `X = 0xF` (the spec's decision D1). -/
def Obligations.AddToIndexWritesOverflow : Prop :=
  ∀ (x : Reg) (s : State), EncodedAs (.addI x) (0xF01E + 0x100 * x.toNat) ∧
    ∃ t, exec (.addI x) s = .next t ∧ t.idx.toNat = (s.idx.toNat + (s.getV x).toNat) % 4096 ∧
      t.getV 0xF = (if 0xFFF < s.idx.toNat + (s.getV x).toNat then 1 else 0) ∧ PcSequential s t ∧
      Frame.RegsExcept [0xF] s t ∧ Frame.Mem s t ∧ Frame.Stack s t ∧ Frame.Timers s t ∧ Frame.Picture s t ∧
      Frame.Keypad s t ∧ Frame.Draws s t

/-- 43_index_memory.md section 1 (`FX29`): `I` is five times the whole byte `VX` (the spec's decision D27 above 15). -/
def Obligations.GlyphAddressIsFiveTimesDigit : Prop :=
  ∀ (x : Reg) (s : State), EncodedAs (.ldF x) (0xF029 + 0x100 * x.toNat) ∧
    ∃ t, exec (.ldF x) s = .next t ∧ t.idx.toNat = 5 * (s.getV x).toNat ∧ PcSequential s t ∧ Frame.RegsExcept [] s t ∧
      Frame.Mem s t ∧ Frame.Stack s t ∧ Frame.Timers s t ∧ Frame.Picture s t ∧ Frame.Keypad s t ∧ Frame.Draws s t

/-- R193. `FX33` stores the three decimal digits of `VX` at `I`, `I + 1`, `I + 2` and changes no other byte; past `0xFFF` it
raises `OutOfBounds(I + 2)`. Memory is in its canonical form (an invariant: InvariantKeptByStep). -/
def Obligations.DecimalDigitsAreStored : Prop :=
  ∀ (x : Reg) (s : State), EncodedAs (.ldB x) (0xF033 + 0x100 * x.toNat) ∧
    (s.mem.wf → s.atI 2 ≤ 0xFFF → ∃ t, exec (.ldB x) s = .next t ∧
      (t.mem.read (s.atI 0)).toNat = (s.getV x).toNat / 100 ∧
      (t.mem.read (s.atI 1)).toNat = (s.getV x).toNat / 10 % 10 ∧
      (t.mem.read (s.atI 2)).toNat = (s.getV x).toNat % 10 ∧
      Frame.MemOutside (s.atI 0) 3 s t ∧ PcSequential s t ∧ Frame.RegsExcept [] s t ∧ Frame.Idx s t ∧ Frame.Stack s t ∧
      Frame.Timers s t ∧ Frame.Picture s t ∧ Frame.Keypad s t ∧ Frame.Draws s t) ∧
    (0xFFF < s.atI 2 → exec (.ldB x) s = .fault (.outOfBounds (s.atI 2)))

/-- 43_index_memory.md section 2 (`FX55`): `V0..VX` at `I`, ascending, no other byte changed, `I` becomes `I + X + 1`
modulo 4096 (the wrap is the spec's decision D3); past `0xFFF` nothing happens but `OutOfBounds(I + X)` (decision D5).
Memory is in its canonical form (an invariant: InvariantKeptByStep). -/
def Obligations.RegistersAreStored : Prop :=
  ∀ (x : Reg) (s : State), EncodedAs (.ldMemVx x) (0xF055 + 0x100 * x.toNat) ∧
    (s.mem.wf → s.atI x.toNat ≤ 0xFFF → ∃ t, exec (.ldMemVx x) s = .next t ∧
      (∀ k : Reg, k.toNat ≤ x.toNat → t.mem.read (s.atI k.toNat) = s.getV k) ∧
      Frame.MemOutside (s.atI 0) (x.toNat + 1) s t ∧ t.idx.toNat = (s.idx.toNat + x.toNat + 1) % 4096 ∧
      PcSequential s t ∧ Frame.RegsExcept [] s t ∧ Frame.Stack s t ∧ Frame.Timers s t ∧ Frame.Picture s t ∧
      Frame.Keypad s t ∧ Frame.Draws s t) ∧
    (0xFFF < s.atI x.toNat → exec (.ldMemVx x) s = .fault (.outOfBounds (s.atI x.toNat)))

/-- 43_index_memory.md section 2 (`FX65`): the bytes at `I` in `V0..VX`, the registers above `VX` and all of memory
unchanged, `I` becomes `I + X + 1` modulo 4096 (decision D3); past `0xFFF` only `OutOfBounds(I + X)` (decision D5). -/
def Obligations.RegistersAreLoaded : Prop :=
  ∀ (x : Reg) (s : State), EncodedAs (.ldVxMem x) (0xF065 + 0x100 * x.toNat) ∧
    (s.atI x.toNat ≤ 0xFFF → ∃ t, exec (.ldVxMem x) s = .next t ∧
      (∀ k : Reg, k.toNat ≤ x.toNat → t.getV k = s.mem.read (s.atI k.toNat)) ∧
      (∀ k : Reg, x.toNat < k.toNat → t.getV k = s.getV k) ∧ t.idx.toNat = (s.idx.toNat + x.toNat + 1) % 4096 ∧
      PcSequential s t ∧ Frame.Mem s t ∧ Frame.Stack s t ∧ Frame.Timers s t ∧ Frame.Picture s t ∧ Frame.Keypad s t ∧
      Frame.Draws s t) ∧
    (0xFFF < s.atI x.toNat → exec (.ldVxMem x) s = .fault (.outOfBounds (s.atI x.toNat)))

/-- 43_index_memory.md section 3: `FX55`, then anything that leaves the stored bytes as they are, then `I` set back, then
`FX65` with the same `X` restores `V0..VX`; `I` is the same after each (decisions D3, D5). -/
def Obligations.StoreThenLoadRestoresRegisters : Prop :=
  ∀ (x : Reg) (s t u : State), s.mem.wf → exec (.ldMemVx x) s = .next t →
    (∀ k : Reg, k.toNat ≤ x.toNat → u.mem.read (s.atI k.toNat) = t.mem.read (s.atI k.toNat)) → u.idx = s.idx →
    ∃ w, exec (.ldVxMem x) u = .next w ∧ (∀ k : Reg, k.toNat ≤ x.toNat → w.getV k = s.getV k) ∧ w.idx = t.idx ∧
      w.idx.toNat = (s.idx.toNat + x.toNat + 1) % 4096

/-! ## Display (44_display.md) -/

/-- R210. `00E0`: all 2048 pixels 0, draw-pending set, nothing else but `pc`. -/
def Obligations.ClearScreenClearsEveryPixel : Prop :=
  ∀ s : State, EncodedAs .cls 0x00E0 ∧
    ∃ t, exec .cls s = .next t ∧ (∀ px py : Nat, px < 64 → py < 32 → t.fb.pixel px py = false) ∧ t.drawPending = true ∧
      PcSequential s t ∧ Frame.RegsExcept [] s t ∧ Frame.Mem s t ∧ Frame.Idx s t ∧ Frame.Stack s t ∧ Frame.Timers s t ∧
      Frame.Keypad s t ∧ Frame.Draws s t

/-- 44_display.md sections 1 and 2 (`DXYN`): a pixel changes exactly when it lies under a 1 bit of the sprite, with
wraparound on both axes; `VF` is 1 when some pixel went from set to unset, else 0; draw-pending is set; `I` and memory are
unchanged; a sprite past `0xFFF` only raises `OutOfBounds(I + N − 1)`. It rests on the spec's decisions D5, D7 (bit order),
D17 (coordinates) and D24 (`N = 0`). -/
def Obligations.DrawXorsSpriteOntoPicture : Prop :=
  ∀ (x y : Reg) (n : BitVec 4) (s : State),
    EncodedAs (.drw x y n) (0xD000 + 0x100 * x.toNat + 0x10 * y.toNat + n.toNat) ∧
    ((n.toNat = 0 ∨ s.atI (n.toNat - 1) ≤ 0xFFF) → ∃ t, exec (.drw x y n) s = .next t ∧
      (∀ px py : Nat, px < 64 → py < 32 → (t.fb.pixel px py = true ↔
        ¬ (s.fb.pixel px py = true ↔
          UnderSprite s.mem (s.atI 0) n.toNat (s.getV x).toNat (s.getV y).toNat px py))) ∧
      (t.getV 0xF = 0 ∨ t.getV 0xF = 1) ∧
      (t.getV 0xF = 1 ↔
        ∃ px py : Nat, px < 64 ∧ py < 32 ∧ s.fb.pixel px py = true ∧ t.fb.pixel px py = false) ∧
      t.drawPending = true ∧ PcSequential s t ∧ Frame.RegsExcept [0xF] s t ∧ Frame.Mem s t ∧ Frame.Idx s t ∧
      Frame.Stack s t ∧ Frame.Timers s t ∧ Frame.Keypad s t ∧ Frame.Draws s t) ∧
    (n.toNat ≠ 0 → 0xFFF < s.atI (n.toNat - 1) → exec (.drw x y n) s = .fault (.outOfBounds (s.atI (n.toNat - 1))))

/-- 44_display.md section 2, the source's property: drawing the same sprite twice at the same place restores the picture;
if nothing under its 1 bits was lit before, the first `VF` is 0 and the second is 1 exactly when the sprite has a 1 bit. It
rests on the same decisions as DrawXorsSpriteOntoPicture. -/
def Obligations.DrawTwiceRestoresPicture : Prop :=
  ∀ (x y : Reg) (n : BitVec 4) (s t u : State), exec (.drw x y n) s = .next t →
    u.fb = t.fb → u.idx = s.idx → u.getV x = s.getV x → u.getV y = s.getV y →
    (∀ r : Nat, r < n.toNat → u.mem.read (s.atI r) = s.mem.read (s.atI r)) →
    ∃ w, exec (.drw x y n) u = .next w ∧ w.fb = s.fb ∧
      ((∀ px py : Nat, px < 64 → py < 32 →
          UnderSprite s.mem (s.atI 0) n.toNat (s.getV x).toNat (s.getV y).toNat px py → s.fb.pixel px py = false) →
        t.getV 0xF = 0 ∧ (w.getV 0xF = 1 ↔ ∃ r : Nat, r < n.toNat ∧ s.mem.read (s.atI r) ≠ 0))

/-! ## Keypad and timers (45_keypad_timers.md) -/

/-- 45_keypad_timers.md section 1: `EX9E` skips when the key named by the VALUE of `VX` is pressed, `EXA1` when it is not;
a value above 15 raises `OutOfBounds` with the value (the spec's decision D6). -/
def Obligations.KeySkipsFollowTheKeypad : Prop :=
  ∀ (x : Reg) (s : State),
    EncodedAs (.skp x) (0xE09E + 0x100 * x.toNat) ∧ EncodedAs (.sknp x) (0xE0A1 + 0x100 * x.toNat) ∧
    (∀ k : Fin 16, k.val = (s.getV x).toNat →
      SkipsWhen (.skp x) s (s.keypad[k] = true) ∧ SkipsWhen (.sknp x) s (s.keypad[k] = false)) ∧
    (15 < (s.getV x).toNat → exec (.skp x) s = .fault (.outOfBounds (s.getV x).toNat) ∧
      exec (.sknp x) s = .fault (.outOfBounds (s.getV x).toNat))

/-- 45_keypad_timers.md section 2 (`FX0A`): with no key pressed execute changes nothing (the spec's decision D13: no stored
wait state); else the lowest pressed key goes to `VX`. -/
def Obligations.WaitForKeyTakesLowestKey : Prop :=
  ∀ (x : Reg) (s : State), EncodedAs (.ldVxK x) (0xF00A + 0x100 * x.toNat) ∧
    (s.NoKey → exec (.ldVxK x) s = .next s) ∧
    ∀ k : Fin 16, s.keypad[k] = true → (∀ j : Fin 16, j < k → s.keypad[j] = false) →
      ∃ t, exec (.ldVxK x) s = .next t ∧ (t.getV x).toNat = k.val ∧ PcSequential s t ∧ Frame.OnlyRegs [x] s t

/-- R233, R234, R235. `FX07` reads `DT` before this Step's tick; `FX15` and `FX18` set a timer to `VX`, and at rest after
the tick it is one less (0 stays 0); after `FX18` the tone is true on exactly `VX` ticks, the first being this Step's. That
no instruction reads `ST` is SoundTimerIsUnread. -/
def Obligations.TimerInstructions : Prop :=
  ∀ (x : Reg) (s : State),
    (EncodedAs (.ldVxDt x) (0xF007 + 0x100 * x.toNat) ∧
      ∃ t, exec (.ldVxDt x) s = .next t ∧ t.getV x = s.dt ∧ t.timerTick.dt.toNat = s.dt.toNat - 1 ∧ PcSequential s t ∧
        Frame.OnlyRegs [x] s t) ∧
    (EncodedAs (.ldDtVx x) (0xF015 + 0x100 * x.toNat) ∧
      ∃ t, exec (.ldDtVx x) s = .next t ∧ t.dt = s.getV x ∧ t.timerTick.dt.toNat = (s.getV x).toNat - 1 ∧ t.st = s.st ∧
        PcSequential s t ∧ Frame.RegsExcept [] s t ∧ Frame.Mem s t ∧ Frame.Idx s t ∧ Frame.Stack s t ∧
        Frame.Picture s t ∧ Frame.Keypad s t ∧ Frame.Draws s t) ∧
    (EncodedAs (.ldStVx x) (0xF018 + 0x100 * x.toNat) ∧
      ∃ t, exec (.ldStVx x) s = .next t ∧ t.st = s.getV x ∧ t.timerTick.st.toNat = (s.getV x).toNat - 1 ∧ t.dt = s.dt ∧
        (∀ n : Nat, (State.timerTick^[n] t).tone = decide (n < (s.getV x).toNat)) ∧
        PcSequential s t ∧ Frame.RegsExcept [] s t ∧ Frame.Mem s t ∧ Frame.Idx s t ∧ Frame.Stack s t ∧
        Frame.Picture s t ∧ Frame.Keypad s t ∧ Frame.Draws s t)

/-! ## The record: invariants, reset, who writes what (10_state.md) -/

/-- 10_state.md sections 4 and 5 and 95_test_vectors.md section 5: every Step keeps the invariant (memory canonical, `pc`,
`I` and the live stack entries at most `0xFFF`). The canonical form of memory is the model's. -/
def Obligations.InvariantKeptByStep : Prop :=
  ∀ s t : State, s.Inv → step s = .next t → t.Inv

/-- 10_state.md section 10: the record after reset meets the invariant. -/
def Obligations.InvariantHoldsAtReset : Prop :=
  State.reset.Inv

/-- 50_host_interface.md section 1 and 95_test_vectors.md section 5: every operation of the host keeps the invariant,
whatever the machine's font. The canonical form of memory is the model's. -/
def Obligations.InvariantKeptByEveryHostOperation : Prop :=
  ∀ (font : Vector Byte 80) (op : HostOp) (s : State), s.Inv → (op.apply font s).1.Inv

/-- 10_state.md section 10, field by field. `pc`, `sp`, the timers and `V` are the source's values; the font bytes are the
spec's default table (decision D8), and `I`, the rest of memory, the stack entries, the framebuffer, draw-pending and the
keypad are the spec's decisions D9 and D10. -/
def Obligations.ResetRecordFieldByField : Prop :=
  State.reset.pc.toNat = 0x200 ∧ State.reset.sp.val = 0 ∧ State.reset.dt = 0 ∧ State.reset.st = 0 ∧
  (∀ k : Reg, State.reset.getV k = 0) ∧ State.reset.idx = 0 ∧ Config.font.length = 80 ∧
  (∀ a : Nat, State.reset.mem.read a = if a < 0x50 then Config.font.getD a 0 else 0) ∧
  (∀ k : Fin 16, State.reset.stack[k] = 0) ∧
  (∀ px py : Nat, State.reset.fb.pixel px py = false) ∧ State.reset.drawPending = false ∧
  (∀ k : Fin 16, State.reset.keypad[k] = false)

/-- 20_memory.md section 2 and 50_host_interface.md section 2: Init and Reset on a machine with any font put its 80 bytes
at `0x000`–`0x04F`, zero everywhere else (decisions D9, D10), and every other field of the spec at its reset value; with the
default font they make `State.reset`. The model's count of random bytes goes on (log 1). -/
def Obligations.InitPlacesAnyFont : Prop :=
  ∀ (font : Vector Byte 80) (s : State), ∃ t, HostOp.apply font s .init = (t, .done) ∧
    HostOp.apply font s .reset = (t, .done) ∧
    (∀ k : Fin 80, t.mem.read k.val = font[k]) ∧
    (∀ a : Nat, 0x50 ≤ a → t.mem.read a = 0) ∧
    t = { State.reset with mem := t.mem, draws := s.draws } ∧
    (font.toList = Config.font → t = { State.reset with draws := s.draws })

/-- 70_reset_and_hazards.md section 2: "A Step on a freshly reset, unloaded machine fetches `0x0000` at `0x200` and raises
`UnknownOpcode(0x0000)`". -/
def Obligations.UnloadedMachineRaisesUnknownOpcode : Prop :=
  State.reset.fetch = .ok 0x0000 ∧ step State.reset = .fault (.unknownOpcode 0x0000)

/-- 10_state.md section 1, the column "written by": which instructions may change each field in execute. -/
def Obligations.OnlyListedInstructionsWriteEachField : Prop :=
  ∀ (i : Instr) (s t : State), exec i s = .next t →
    t.keypad = s.keypad ∧
    ((∀ x, i ≠ .ldB x) → (∀ x, i ≠ .ldMemVx x) → t.mem = s.mem) ∧
    ((∀ nnn, i ≠ .ldI nnn) → (∀ x, i ≠ .addI x) → (∀ x, i ≠ .ldF x) → (∀ x, i ≠ .ldMemVx x) →
      (∀ x, i ≠ .ldVxMem x) → t.idx = s.idx) ∧
    ((∀ nnn, i ≠ .call nnn) → t.stack = s.stack) ∧
    ((∀ nnn, i ≠ .call nnn) → i ≠ .ret → t.sp = s.sp) ∧
    ((∀ x, i ≠ .ldDtVx x) → t.dt = s.dt) ∧
    ((∀ x, i ≠ .ldStVx x) → t.st = s.st) ∧
    (i ≠ .cls → (∀ x y n, i ≠ .drw x y n) → t.fb = s.fb ∧ t.drawPending = s.drawPending) ∧
    ((∀ x nn, i ≠ .rnd x nn) → t.draws = s.draws)

/-- 10_state.md sections 2 and 3: an instruction changes no general register but its destination and, for the instructions
that write the flag, `VF`. -/
def Obligations.OnlyDestinationRegistersChange : Prop :=
  ∀ (i : Instr) (s t : State) (k : Reg), exec i s = .next t → ¬ i.writesReg k → t.getV k = s.getV k

/-- R31. Draw-pending is set by every successful `DXYN` and every `00E0`, whether or not a pixel changed, by nothing else,
and never cleared by the engine; no Step depends on it. -/
def Obligations.DrawPendingIsWriteOnly : Prop :=
  (∀ (i : Instr) (s t : State), exec i s = .next t →
    ((i = .cls ∨ ∃ x y n, i = .drw x y n) → t.drawPending = true) ∧
    (i ≠ .cls → (∀ x y n, i ≠ .drw x y n) → t.drawPending = s.drawPending)) ∧
  (∀ s t : State, step s = .next t → s.drawPending = true → t.drawPending = true) ∧
  (∀ s : State, s.clearDrawPending = { s with drawPending := false }) ∧
  ∀ (s : State) (b : Bool),
    (∀ e, step s = .fault e → step { s with drawPending := b } = .fault e) ∧
    (∀ t, step s = .next t → ∃ c, step { s with drawPending := b } = .next { t with drawPending := c })

/-- 10_state.md section 5: no instruction reads `ST`. Two records that differ in `ST` alone Step to records that differ in
`ST` alone, or raise the same error. -/
def Obligations.SoundTimerIsUnread : Prop :=
  ∀ (s : State) (u : Byte),
    (∀ e, step s = .fault e → step { s with st := u } = .fault e) ∧
    (∀ t, step s = .next t → ∃ c, step { s with st := u } = .next { t with st := c })

/-- 10_state.md section 5: an entry at index `≥ sp` is dead: nothing but host inspection can see it. Two records that
differ in dead entries alone Step to records that differ in dead entries alone, or raise the same error. That a popped entry
keeps its value is the spec's decision D23. -/
def Obligations.DeadStackEntriesAreUnread : Prop :=
  ∀ s s' : State, s.SameButDeadStack s' →
    (∀ e, step s = .fault e → step s' = .fault e) ∧
    (∀ t, step s = .next t → ∃ t', step s' = .next t' ∧ t.SameButDeadStack t')

/-- 41_flow.md section 3: a live stack entry that is still live after a Step has kept its value. -/
def Obligations.LiveStackEntriesSurvive : Prop :=
  ∀ (s t : State) (k : Fin 16), step s = .next t → k.val < s.sp.val → k.val < t.sp.val → t.stack[k] = s.stack[k]

/-- 41_flow.md section 3, the call and return law: after a call, from any record with the call's `sp` and pushed entry,
`00EE` goes to the instruction after the call and restores `sp` (the pushed value is the spec's decision D2). -/
def Obligations.ReturnUndoesCall : Prop :=
  ∀ (nnn : Addr) (s t u : State), exec (.call nnn) s = .next t → u.sp = t.sp →
    (∀ k : Fin 16, k.val = s.sp.val → u.stack[k] = t.stack[k]) →
    ∃ w, exec .ret u = .next w ∧ w.pc.toNat = (s.pc.toNat + 2) % 4096 ∧ w.sp = s.sp

/-- 70_reset_and_hazards.md section 3: `FX15` with `k` in `VX`, then `n` Steps without another `FX15`, leave
`max(k − 1 − n, 0)` in `DT`, which is what an `FX07` in the next Step reads (decision D13 for waiting Steps). -/
def Obligations.DelayTimerCountsSteps : Prop :=
  (∀ (n : Nat) (s t : State), RunsWithoutSettingDelay n s t → t.dt.toNat = s.dt.toNat - n) ∧
  ∀ (x y : Reg) (n : Nat) (s u t : State), s.fetchInstr = .ok (.ldDtVx x) → step s = .next u →
    RunsWithoutSettingDelay n u t → t.fetchInstr = .ok (.ldVxDt y) →
    ∃ w, step t = .next w ∧ (w.getV y).toNat = (s.getV x).toNat - (n + 1)

/-- 20_memory.md section 8 (instruction-fetch coherence, decision D18): a byte `FX55` stores in one Step is the byte the
next fetch reads, and a byte it does not store is fetched as before. Memory is in its canonical form (an invariant:
InvariantKeptByStep). -/
def Obligations.StoresAreSeenByTheNextFetch : Prop :=
  ∀ (x : Reg) (s t : State), s.mem.wf → s.fetchInstr = .ok (.ldMemVx x) → step s = .next t → t.pc.toNat + 1 ≤ 0xFFF →
    ∃ w : Word, t.fetch = .ok w ∧
      (∀ k : Reg, k.toNat ≤ x.toNat → s.atI k.toNat = t.pc.toNat → w.toNat / 256 = (s.getV k).toNat) ∧
      (∀ k : Reg, k.toNat ≤ x.toNat → s.atI k.toNat = t.pc.toNat + 1 → w.toNat % 256 = (s.getV k).toNat) ∧
      ((t.pc.toNat < s.atI 0 ∨ s.atI x.toNat < t.pc.toNat) → w.toNat / 256 = (s.mem.read t.pc.toNat).toNat) ∧
      ((t.pc.toNat + 1 < s.atI 0 ∨ s.atI x.toNat < t.pc.toNat + 1) →
        w.toNat % 256 = (s.mem.read (t.pc.toNat + 1)).toNat)

/-! ## The host's operations (50_host_interface.md) -/

/-- 50_host_interface.md section 2 and 60_exceptions.md section 1: Load of at most 3584 bytes writes them at `0x200` and
changes nothing else (the spec's decision D12); a longer image raises `ProgramTooLarge(len)` and writes nothing. Memory is in
its canonical form (an invariant: InvariantKeptByEveryHostOperation). -/
def Obligations.LoadPlacesTheImage : Prop :=
  ∀ (font : Vector Byte 80) (bytes : List Byte) (s : State),
    (s.mem.wf → bytes.length ≤ 3584 → ∃ t, s.load bytes = .next t ∧ HostOp.apply font s (.load bytes) = (t, .ok) ∧
      (∀ k : Nat, k < bytes.length → t.mem.read (0x200 + k) = bytes.getD k 0) ∧
      Frame.MemOutside 0x200 bytes.length s t ∧ t = { s with mem := t.mem }) ∧
    (3584 < bytes.length → s.load bytes = .fault (.programTooLarge bytes.length) ∧
      HostOp.apply font s (.load bytes) = (s, .error (.programTooLarge bytes.length)))

/-- 50_host_interface.md sections 3 and 4: what TimerTick (decision D19), ClearDrawPending, KeypadWrite and the three reads
change and answer; the order of the 2048 bits is row-major (decision D17). -/
def Obligations.HostOperationsTouchOnlyTheirField : Prop :=
  ∀ (font : Vector Byte 80) (s : State),
    (∃ t, HostOp.apply font s .timerTick = (t, .ticked (decide (0 < s.st.toNat))) ∧ t.dt.toNat = s.dt.toNat - 1 ∧
      t.st.toNat = s.st.toNat - 1 ∧ t = { s with dt := t.dt, st := t.st }) ∧
    HostOp.apply font s .clearDrawPending = ({ s with drawPending := false }, .done) ∧
    (∀ (k : Fin 16) (p : Bool), ∃ t, HostOp.apply font s (.keypadWrite k p) = (t, .done) ∧ t.keypad[k] = p ∧
      (∀ j : Fin 16, j ≠ k → t.keypad[j] = s.keypad[j]) ∧ t = { s with keypad := t.keypad }) ∧
    (∀ keys : Vector Bool 16, HostOp.apply font s (.keypadWriteAll keys) = ({ s with keypad := keys }, .done)) ∧
    (∃ bits, HostOp.apply font s .framebufferRead = (s, .frame bits s.drawPending) ∧ bits.length = 2048 ∧
      ∀ px py : Nat, px < 64 → py < 32 → bits.getD (py * 64 + px) false = s.fb.pixel px py) ∧
    HostOp.apply font s .timerRead = (s, .timers s.dt s.st) ∧
    HostOp.apply font s .inspect = (s, .record s)

/-- 20_memory.md section 1: memory is one byte at each address and nothing more. Two memories in the model's canonical form
that read the same at every address are the same data. -/
def Obligations.CanonicalMemoriesAreEqualWhenBytesAre : Prop :=
  ∀ m n : Memory, m.wf → n.wf → (∀ a : Nat, m.read a = n.read a) → m = n
end

