-- ==== Sys2Proof/Laws/Decode.lean ====
section
/-! SUPPORT. The fields of a word as numbers, and the fields of a word written digit by digit: the two ways a proof about
`decode` and `encode` looks at a word. -/

namespace Sys2Proof

theorem toNat_append_add {n m : Nat} (a : BitVec n) (b : BitVec m) :
    (a ++ b).toNat = a.toNat * 2 ^ m + b.toNat := by
  rw [BitVec.toNat_append, ← Nat.shiftLeft_add_eq_or_of_lt b.isLt, Nat.shiftLeft_eq]

/-! ### Fields as numbers (R91) -/

theorem Word.toNat_op (w : Word) : (Word.op w).toNat = w.toNat / 4096 := by
  have := w.isLt
  simp only [Word.op, BitVec.extractLsb'_toNat, Nat.shiftRight_eq_div_pow]
  omega

theorem Word.toNat_x (w : Word) : (Word.x w).toNat = w.toNat / 256 % 16 := by
  simp only [Word.x, BitVec.extractLsb'_toNat, Nat.shiftRight_eq_div_pow]

theorem Word.toNat_y (w : Word) : (Word.y w).toNat = w.toNat / 16 % 16 := by
  simp only [Word.y, BitVec.extractLsb'_toNat, Nat.shiftRight_eq_div_pow]

theorem Word.toNat_n (w : Word) : (Word.n w).toNat = w.toNat % 16 := by
  simp only [Word.n, BitVec.extractLsb'_toNat, Nat.shiftRight_eq_div_pow]
  omega

theorem Word.toNat_nn (w : Word) : (Word.nn w).toNat = w.toNat % 256 := by
  simp only [Word.nn, BitVec.extractLsb'_toNat, Nat.shiftRight_eq_div_pow]
  omega

theorem Word.toNat_nnn (w : Word) : (Word.nnn w).toNat = w.toNat % 4096 := by
  simp only [Word.nnn, BitVec.extractLsb'_toNat, Nat.shiftRight_eq_div_pow]
  omega

/-! ### Format `A`: one digit and twelve bits -/

@[simp] theorem Word.op_A (a : BitVec 4) (b : Addr) : Word.op (a ++ b : BitVec 16) = a := by
  apply BitVec.eq_of_toNat_eq
  have := b.isLt
  rw [Word.toNat_op, toNat_append_add]
  omega

@[simp] theorem Word.nnn_A (a : BitVec 4) (b : Addr) : Word.nnn (a ++ b : BitVec 16) = b := by
  apply BitVec.eq_of_toNat_eq
  have := b.isLt
  rw [Word.toNat_nnn, toNat_append_add]
  omega

/-! ### Formats `XI` and `XF`: two digits and a byte -/

@[simp] theorem Word.op_XI (a : BitVec 4) (x : Reg) (b : Byte) : Word.op (a ++ x ++ b : BitVec 16) = a := by
  apply BitVec.eq_of_toNat_eq
  have := b.isLt
  have := x.isLt
  rw [Word.toNat_op, toNat_append_add, toNat_append_add]
  omega

@[simp] theorem Word.x_XI (a : BitVec 4) (x : Reg) (b : Byte) : Word.x (a ++ x ++ b : BitVec 16) = x := by
  apply BitVec.eq_of_toNat_eq
  have := b.isLt
  have := x.isLt
  rw [Word.toNat_x, toNat_append_add, toNat_append_add]
  omega

@[simp] theorem Word.nn_XI (a : BitVec 4) (x : Reg) (b : Byte) : Word.nn (a ++ x ++ b : BitVec 16) = b := by
  apply BitVec.eq_of_toNat_eq
  have := b.isLt
  rw [Word.toNat_nn, toNat_append_add]
  omega

/-! ### Formats `XY` and `XYN`: four digits -/

@[simp] theorem Word.op_XY (a : BitVec 4) (x y : Reg) (n : BitVec 4) : Word.op (a ++ x ++ y ++ n : BitVec 16) = a := by
  apply BitVec.eq_of_toNat_eq
  have := n.isLt
  have := y.isLt
  have := x.isLt
  rw [Word.toNat_op, toNat_append_add, toNat_append_add, toNat_append_add]
  omega

@[simp] theorem Word.x_XY (a : BitVec 4) (x y : Reg) (n : BitVec 4) : Word.x (a ++ x ++ y ++ n : BitVec 16) = x := by
  apply BitVec.eq_of_toNat_eq
  have := n.isLt
  have := y.isLt
  have := x.isLt
  rw [Word.toNat_x, toNat_append_add, toNat_append_add, toNat_append_add]
  omega

@[simp] theorem Word.y_XY (a : BitVec 4) (x y : Reg) (n : BitVec 4) : Word.y (a ++ x ++ y ++ n : BitVec 16) = y := by
  apply BitVec.eq_of_toNat_eq
  have := n.isLt
  have := y.isLt
  rw [Word.toNat_y, toNat_append_add, toNat_append_add]
  omega

@[simp] theorem Word.n_XY (a : BitVec 4) (x y : Reg) (n : BitVec 4) : Word.n (a ++ x ++ y ++ n : BitVec 16) = n := by
  apply BitVec.eq_of_toNat_eq
  have := n.isLt
  rw [Word.toNat_n, toNat_append_add]
  omega

/-! ### Decode, one lemma per family nibble (R94) -/

theorem decode_op0 (w : Word) (h : Word.op w = 0x0) : decode w = decodeFamily0 w := by
  simp [decode, h]

theorem decode_op1 (w : Word) (h : Word.op w = 0x1) : decode w = some (.jp (Word.nnn w)) := by
  simp [decode, h]

theorem decode_op2 (w : Word) (h : Word.op w = 0x2) : decode w = some (.call (Word.nnn w)) := by
  simp [decode, h]

theorem decode_op3 (w : Word) (h : Word.op w = 0x3) : decode w = some (.seImm (Word.x w) (Word.nn w)) := by
  simp [decode, h]

theorem decode_op4 (w : Word) (h : Word.op w = 0x4) : decode w = some (.sneImm (Word.x w) (Word.nn w)) := by
  simp [decode, h]

theorem decode_op5 (w : Word) (h : Word.op w = 0x5) : decode w = decodeFamily5 w := by
  simp [decode, h]

theorem decode_op6 (w : Word) (h : Word.op w = 0x6) : decode w = some (.ldImm (Word.x w) (Word.nn w)) := by
  simp [decode, h]

theorem decode_op7 (w : Word) (h : Word.op w = 0x7) : decode w = some (.addImm (Word.x w) (Word.nn w)) := by
  simp [decode, h]

theorem decode_op8 (w : Word) (h : Word.op w = 0x8) : decode w = decodeFamily8 w := by
  simp [decode, h]

theorem decode_op9 (w : Word) (h : Word.op w = 0x9) : decode w = decodeFamily9 w := by
  simp [decode, h]

theorem decode_opA (w : Word) (h : Word.op w = 0xA) : decode w = some (.ldI (Word.nnn w)) := by
  simp [decode, h]

theorem decode_opB (w : Word) (h : Word.op w = 0xB) : decode w = some (.jpV0 (Word.nnn w)) := by
  simp [decode, h]

theorem decode_opC (w : Word) (h : Word.op w = 0xC) : decode w = some (.rnd (Word.x w) (Word.nn w)) := by
  simp [decode, h]

theorem decode_opD (w : Word) (h : Word.op w = 0xD) : decode w = some (.drw (Word.x w) (Word.y w) (Word.n w)) := by
  simp [decode, h]

theorem decode_opE (w : Word) (h : Word.op w = 0xE) : decode w = decodeFamilyE w := by
  simp [decode, h]

theorem decode_opF (w : Word) (h : Word.op w = 0xF) : decode w = decodeFamilyF w := by
  simp [decode, h]

/-- The sixteen families. -/
theorem nibble_cases : ∀ o : BitVec 4, o = 0x0 ∨ o = 0x1 ∨ o = 0x2 ∨ o = 0x3 ∨ o = 0x4 ∨ o = 0x5 ∨ o = 0x6 ∨ o = 0x7 ∨
    o = 0x8 ∨ o = 0x9 ∨ o = 0xA ∨ o = 0xB ∨ o = 0xC ∨ o = 0xD ∨ o = 0xE ∨ o = 0xF := by
  decide

/-! ### Bytes of a word (20_memory.md R65) -/

/-- `w = mem[pc] × 256 + mem[pc + 1]`. -/
theorem toNat_wordOfBytes (hi lo : Byte) : (wordOfBytes hi lo).toNat = hi.toNat * 256 + lo.toNat :=
  toNat_append_add hi lo

/-- The bytes of a word, high byte first, form the word again. -/
theorem wordOfBytes_bytes (w : Word) : wordOfBytes (w.extractLsb' 8 8) (w.extractLsb' 0 8) = w := by
  apply BitVec.eq_of_toNat_eq
  have := w.isLt
  rw [toNat_wordOfBytes]
  simp only [BitVec.extractLsb'_toNat, Nat.shiftRight_eq_div_pow]
  omega

end Sys2Proof
end

