-- ==== Sys2Proof/Laws/State.lean ====
section
/-! SUPPORT. One lemma per field per update of the state record, each true by `rfl`, so that no later proof unfolds a
record update; then the small lemmas of the register file. -/

namespace Sys2Proof.Machine

@[simp] theorem State.setV_mem (s : State) (x : Reg) (u : Byte) : (s.setV x u).mem = s.mem := rfl
@[simp] theorem State.setV_v (s : State) (x : Reg) (u : Byte) : (s.setV x u).v = s.v.set x.toNat u x.isLt := rfl
@[simp] theorem State.setV_idx (s : State) (x : Reg) (u : Byte) : (s.setV x u).idx = s.idx := rfl
@[simp] theorem State.setV_pc (s : State) (x : Reg) (u : Byte) : (s.setV x u).pc = s.pc := rfl
@[simp] theorem State.setV_stack (s : State) (x : Reg) (u : Byte) : (s.setV x u).stack = s.stack := rfl
@[simp] theorem State.setV_sp (s : State) (x : Reg) (u : Byte) : (s.setV x u).sp = s.sp := rfl
@[simp] theorem State.setV_dt (s : State) (x : Reg) (u : Byte) : (s.setV x u).dt = s.dt := rfl
@[simp] theorem State.setV_st (s : State) (x : Reg) (u : Byte) : (s.setV x u).st = s.st := rfl
@[simp] theorem State.setV_fb (s : State) (x : Reg) (u : Byte) : (s.setV x u).fb = s.fb := rfl
@[simp] theorem State.setV_keypad (s : State) (x : Reg) (u : Byte) : (s.setV x u).keypad = s.keypad := rfl
@[simp] theorem State.setV_drawPending (s : State) (x : Reg) (u : Byte) : (s.setV x u).drawPending = s.drawPending := rfl
@[simp] theorem State.setV_draws (s : State) (x : Reg) (u : Byte) : (s.setV x u).draws = s.draws := rfl

@[simp] theorem State.setFlag_mem (s : State) (c : Bool) : (s.setFlag c).mem = s.mem := rfl
@[simp] theorem State.setFlag_v (s : State) (c : Bool) : (s.setFlag c).v = (s.setV flagReg (if c then 1 else 0)).v := rfl
@[simp] theorem State.setFlag_idx (s : State) (c : Bool) : (s.setFlag c).idx = s.idx := rfl
@[simp] theorem State.setFlag_pc (s : State) (c : Bool) : (s.setFlag c).pc = s.pc := rfl
@[simp] theorem State.setFlag_stack (s : State) (c : Bool) : (s.setFlag c).stack = s.stack := rfl
@[simp] theorem State.setFlag_sp (s : State) (c : Bool) : (s.setFlag c).sp = s.sp := rfl
@[simp] theorem State.setFlag_dt (s : State) (c : Bool) : (s.setFlag c).dt = s.dt := rfl
@[simp] theorem State.setFlag_st (s : State) (c : Bool) : (s.setFlag c).st = s.st := rfl
@[simp] theorem State.setFlag_fb (s : State) (c : Bool) : (s.setFlag c).fb = s.fb := rfl
@[simp] theorem State.setFlag_keypad (s : State) (c : Bool) : (s.setFlag c).keypad = s.keypad := rfl
@[simp] theorem State.setFlag_drawPending (s : State) (c : Bool) : (s.setFlag c).drawPending = s.drawPending := rfl
@[simp] theorem State.setFlag_draws (s : State) (c : Bool) : (s.setFlag c).draws = s.draws := rfl

@[simp] theorem State.setPc_mem (s : State) (n : Nat) : (s.setPc n).mem = s.mem := rfl
@[simp] theorem State.setPc_v (s : State) (n : Nat) : (s.setPc n).v = s.v := rfl
@[simp] theorem State.setPc_idx (s : State) (n : Nat) : (s.setPc n).idx = s.idx := rfl
@[simp] theorem State.setPc_pc (s : State) (n : Nat) : (s.setPc n).pc = BitVec.ofNat 16 (n % 4096) := rfl
@[simp] theorem State.setPc_stack (s : State) (n : Nat) : (s.setPc n).stack = s.stack := rfl
@[simp] theorem State.setPc_sp (s : State) (n : Nat) : (s.setPc n).sp = s.sp := rfl
@[simp] theorem State.setPc_dt (s : State) (n : Nat) : (s.setPc n).dt = s.dt := rfl
@[simp] theorem State.setPc_st (s : State) (n : Nat) : (s.setPc n).st = s.st := rfl
@[simp] theorem State.setPc_fb (s : State) (n : Nat) : (s.setPc n).fb = s.fb := rfl
@[simp] theorem State.setPc_keypad (s : State) (n : Nat) : (s.setPc n).keypad = s.keypad := rfl
@[simp] theorem State.setPc_drawPending (s : State) (n : Nat) : (s.setPc n).drawPending = s.drawPending := rfl
@[simp] theorem State.setPc_draws (s : State) (n : Nat) : (s.setPc n).draws = s.draws := rfl

@[simp] theorem State.setIdx_mem (s : State) (n : Nat) : (s.setIdx n).mem = s.mem := rfl
@[simp] theorem State.setIdx_v (s : State) (n : Nat) : (s.setIdx n).v = s.v := rfl
@[simp] theorem State.setIdx_idx (s : State) (n : Nat) : (s.setIdx n).idx = BitVec.ofNat 16 (n % 4096) := rfl
@[simp] theorem State.setIdx_pc (s : State) (n : Nat) : (s.setIdx n).pc = s.pc := rfl
@[simp] theorem State.setIdx_stack (s : State) (n : Nat) : (s.setIdx n).stack = s.stack := rfl
@[simp] theorem State.setIdx_sp (s : State) (n : Nat) : (s.setIdx n).sp = s.sp := rfl
@[simp] theorem State.setIdx_dt (s : State) (n : Nat) : (s.setIdx n).dt = s.dt := rfl
@[simp] theorem State.setIdx_st (s : State) (n : Nat) : (s.setIdx n).st = s.st := rfl
@[simp] theorem State.setIdx_fb (s : State) (n : Nat) : (s.setIdx n).fb = s.fb := rfl
@[simp] theorem State.setIdx_keypad (s : State) (n : Nat) : (s.setIdx n).keypad = s.keypad := rfl
@[simp] theorem State.setIdx_drawPending (s : State) (n : Nat) : (s.setIdx n).drawPending = s.drawPending := rfl
@[simp] theorem State.setIdx_draws (s : State) (n : Nat) : (s.setIdx n).draws = s.draws := rfl

@[simp] theorem State.setDt_mem (s : State) (u : Byte) : (s.setDt u).mem = s.mem := rfl
@[simp] theorem State.setDt_v (s : State) (u : Byte) : (s.setDt u).v = s.v := rfl
@[simp] theorem State.setDt_idx (s : State) (u : Byte) : (s.setDt u).idx = s.idx := rfl
@[simp] theorem State.setDt_pc (s : State) (u : Byte) : (s.setDt u).pc = s.pc := rfl
@[simp] theorem State.setDt_stack (s : State) (u : Byte) : (s.setDt u).stack = s.stack := rfl
@[simp] theorem State.setDt_sp (s : State) (u : Byte) : (s.setDt u).sp = s.sp := rfl
@[simp] theorem State.setDt_dt (s : State) (u : Byte) : (s.setDt u).dt = u := rfl
@[simp] theorem State.setDt_st (s : State) (u : Byte) : (s.setDt u).st = s.st := rfl
@[simp] theorem State.setDt_fb (s : State) (u : Byte) : (s.setDt u).fb = s.fb := rfl
@[simp] theorem State.setDt_keypad (s : State) (u : Byte) : (s.setDt u).keypad = s.keypad := rfl
@[simp] theorem State.setDt_drawPending (s : State) (u : Byte) : (s.setDt u).drawPending = s.drawPending := rfl
@[simp] theorem State.setDt_draws (s : State) (u : Byte) : (s.setDt u).draws = s.draws := rfl

@[simp] theorem State.setSt_mem (s : State) (u : Byte) : (s.setSt u).mem = s.mem := rfl
@[simp] theorem State.setSt_v (s : State) (u : Byte) : (s.setSt u).v = s.v := rfl
@[simp] theorem State.setSt_idx (s : State) (u : Byte) : (s.setSt u).idx = s.idx := rfl
@[simp] theorem State.setSt_pc (s : State) (u : Byte) : (s.setSt u).pc = s.pc := rfl
@[simp] theorem State.setSt_stack (s : State) (u : Byte) : (s.setSt u).stack = s.stack := rfl
@[simp] theorem State.setSt_sp (s : State) (u : Byte) : (s.setSt u).sp = s.sp := rfl
@[simp] theorem State.setSt_dt (s : State) (u : Byte) : (s.setSt u).dt = s.dt := rfl
@[simp] theorem State.setSt_st (s : State) (u : Byte) : (s.setSt u).st = u := rfl
@[simp] theorem State.setSt_fb (s : State) (u : Byte) : (s.setSt u).fb = s.fb := rfl
@[simp] theorem State.setSt_keypad (s : State) (u : Byte) : (s.setSt u).keypad = s.keypad := rfl
@[simp] theorem State.setSt_drawPending (s : State) (u : Byte) : (s.setSt u).drawPending = s.drawPending := rfl
@[simp] theorem State.setSt_draws (s : State) (u : Byte) : (s.setSt u).draws = s.draws := rfl

@[simp] theorem State.setMem_mem (s : State) (m : Memory) : (s.setMem m).mem = m := rfl
@[simp] theorem State.setMem_v (s : State) (m : Memory) : (s.setMem m).v = s.v := rfl
@[simp] theorem State.setMem_idx (s : State) (m : Memory) : (s.setMem m).idx = s.idx := rfl
@[simp] theorem State.setMem_pc (s : State) (m : Memory) : (s.setMem m).pc = s.pc := rfl
@[simp] theorem State.setMem_stack (s : State) (m : Memory) : (s.setMem m).stack = s.stack := rfl
@[simp] theorem State.setMem_sp (s : State) (m : Memory) : (s.setMem m).sp = s.sp := rfl
@[simp] theorem State.setMem_dt (s : State) (m : Memory) : (s.setMem m).dt = s.dt := rfl
@[simp] theorem State.setMem_st (s : State) (m : Memory) : (s.setMem m).st = s.st := rfl
@[simp] theorem State.setMem_fb (s : State) (m : Memory) : (s.setMem m).fb = s.fb := rfl
@[simp] theorem State.setMem_keypad (s : State) (m : Memory) : (s.setMem m).keypad = s.keypad := rfl
@[simp] theorem State.setMem_drawPending (s : State) (m : Memory) : (s.setMem m).drawPending = s.drawPending := rfl
@[simp] theorem State.setMem_draws (s : State) (m : Memory) : (s.setMem m).draws = s.draws := rfl

@[simp] theorem State.setPicture_mem (s : State) (fb : Framebuffer) : (s.setPicture fb).mem = s.mem := rfl
@[simp] theorem State.setPicture_v (s : State) (fb : Framebuffer) : (s.setPicture fb).v = s.v := rfl
@[simp] theorem State.setPicture_idx (s : State) (fb : Framebuffer) : (s.setPicture fb).idx = s.idx := rfl
@[simp] theorem State.setPicture_pc (s : State) (fb : Framebuffer) : (s.setPicture fb).pc = s.pc := rfl
@[simp] theorem State.setPicture_stack (s : State) (fb : Framebuffer) : (s.setPicture fb).stack = s.stack := rfl
@[simp] theorem State.setPicture_sp (s : State) (fb : Framebuffer) : (s.setPicture fb).sp = s.sp := rfl
@[simp] theorem State.setPicture_dt (s : State) (fb : Framebuffer) : (s.setPicture fb).dt = s.dt := rfl
@[simp] theorem State.setPicture_st (s : State) (fb : Framebuffer) : (s.setPicture fb).st = s.st := rfl
@[simp] theorem State.setPicture_fb (s : State) (fb : Framebuffer) : (s.setPicture fb).fb = fb := rfl
@[simp] theorem State.setPicture_keypad (s : State) (fb : Framebuffer) : (s.setPicture fb).keypad = s.keypad := rfl
@[simp] theorem State.setPicture_drawPending (s : State) (fb : Framebuffer) : (s.setPicture fb).drawPending = true := rfl
@[simp] theorem State.setPicture_draws (s : State) (fb : Framebuffer) : (s.setPicture fb).draws = s.draws := rfl

@[simp] theorem State.advance_mem (s : State) : (s.advance).mem = s.mem := rfl
@[simp] theorem State.advance_v (s : State) : (s.advance).v = s.v := rfl
@[simp] theorem State.advance_idx (s : State) : (s.advance).idx = s.idx := rfl
@[simp] theorem State.advance_pc (s : State) : (s.advance).pc = BitVec.ofNat 16 ((s.pc.toNat + 2) % 4096) := rfl
@[simp] theorem State.advance_stack (s : State) : (s.advance).stack = s.stack := rfl
@[simp] theorem State.advance_sp (s : State) : (s.advance).sp = s.sp := rfl
@[simp] theorem State.advance_dt (s : State) : (s.advance).dt = s.dt := rfl
@[simp] theorem State.advance_st (s : State) : (s.advance).st = s.st := rfl
@[simp] theorem State.advance_fb (s : State) : (s.advance).fb = s.fb := rfl
@[simp] theorem State.advance_keypad (s : State) : (s.advance).keypad = s.keypad := rfl
@[simp] theorem State.advance_drawPending (s : State) : (s.advance).drawPending = s.drawPending := rfl
@[simp] theorem State.advance_draws (s : State) : (s.advance).draws = s.draws := rfl

@[simp] theorem State.timerTick_mem (s : State) : (s.timerTick).mem = s.mem := rfl
@[simp] theorem State.timerTick_v (s : State) : (s.timerTick).v = s.v := rfl
@[simp] theorem State.timerTick_idx (s : State) : (s.timerTick).idx = s.idx := rfl
@[simp] theorem State.timerTick_pc (s : State) : (s.timerTick).pc = s.pc := rfl
@[simp] theorem State.timerTick_stack (s : State) : (s.timerTick).stack = s.stack := rfl
@[simp] theorem State.timerTick_sp (s : State) : (s.timerTick).sp = s.sp := rfl
@[simp] theorem State.timerTick_dt (s : State) : (s.timerTick).dt = tickDown s.dt := rfl
@[simp] theorem State.timerTick_st (s : State) : (s.timerTick).st = tickDown s.st := rfl
@[simp] theorem State.timerTick_fb (s : State) : (s.timerTick).fb = s.fb := rfl
@[simp] theorem State.timerTick_keypad (s : State) : (s.timerTick).keypad = s.keypad := rfl
@[simp] theorem State.timerTick_drawPending (s : State) : (s.timerTick).drawPending = s.drawPending := rfl
@[simp] theorem State.timerTick_draws (s : State) : (s.timerTick).draws = s.draws := rfl

@[simp] theorem State.clearDrawPending_mem (s : State) : (s.clearDrawPending).mem = s.mem := rfl
@[simp] theorem State.clearDrawPending_v (s : State) : (s.clearDrawPending).v = s.v := rfl
@[simp] theorem State.clearDrawPending_idx (s : State) : (s.clearDrawPending).idx = s.idx := rfl
@[simp] theorem State.clearDrawPending_pc (s : State) : (s.clearDrawPending).pc = s.pc := rfl
@[simp] theorem State.clearDrawPending_stack (s : State) : (s.clearDrawPending).stack = s.stack := rfl
@[simp] theorem State.clearDrawPending_sp (s : State) : (s.clearDrawPending).sp = s.sp := rfl
@[simp] theorem State.clearDrawPending_dt (s : State) : (s.clearDrawPending).dt = s.dt := rfl
@[simp] theorem State.clearDrawPending_st (s : State) : (s.clearDrawPending).st = s.st := rfl
@[simp] theorem State.clearDrawPending_fb (s : State) : (s.clearDrawPending).fb = s.fb := rfl
@[simp] theorem State.clearDrawPending_keypad (s : State) : (s.clearDrawPending).keypad = s.keypad := rfl
@[simp] theorem State.clearDrawPending_drawPending (s : State) : (s.clearDrawPending).drawPending = false := rfl
@[simp] theorem State.clearDrawPending_draws (s : State) : (s.clearDrawPending).draws = s.draws := rfl

@[simp] theorem State.keypadWrite_mem (s : State) (j : Fin 16) (p : Bool) : (s.keypadWrite j p).mem = s.mem := rfl
@[simp] theorem State.keypadWrite_v (s : State) (j : Fin 16) (p : Bool) : (s.keypadWrite j p).v = s.v := rfl
@[simp] theorem State.keypadWrite_idx (s : State) (j : Fin 16) (p : Bool) : (s.keypadWrite j p).idx = s.idx := rfl
@[simp] theorem State.keypadWrite_pc (s : State) (j : Fin 16) (p : Bool) : (s.keypadWrite j p).pc = s.pc := rfl
@[simp] theorem State.keypadWrite_stack (s : State) (j : Fin 16) (p : Bool) : (s.keypadWrite j p).stack = s.stack := rfl
@[simp] theorem State.keypadWrite_sp (s : State) (j : Fin 16) (p : Bool) : (s.keypadWrite j p).sp = s.sp := rfl
@[simp] theorem State.keypadWrite_dt (s : State) (j : Fin 16) (p : Bool) : (s.keypadWrite j p).dt = s.dt := rfl
@[simp] theorem State.keypadWrite_st (s : State) (j : Fin 16) (p : Bool) : (s.keypadWrite j p).st = s.st := rfl
@[simp] theorem State.keypadWrite_fb (s : State) (j : Fin 16) (p : Bool) : (s.keypadWrite j p).fb = s.fb := rfl
@[simp] theorem State.keypadWrite_keypad (s : State) (j : Fin 16) (p : Bool) : (s.keypadWrite j p).keypad = s.keypad.set j.val p j.isLt := rfl
@[simp] theorem State.keypadWrite_drawPending (s : State) (j : Fin 16) (p : Bool) : (s.keypadWrite j p).drawPending = s.drawPending := rfl
@[simp] theorem State.keypadWrite_draws (s : State) (j : Fin 16) (p : Bool) : (s.keypadWrite j p).draws = s.draws := rfl

@[simp] theorem State.keypadWriteAll_mem (s : State) (keys : Vector Bool 16) : (s.keypadWriteAll keys).mem = s.mem := rfl
@[simp] theorem State.keypadWriteAll_v (s : State) (keys : Vector Bool 16) : (s.keypadWriteAll keys).v = s.v := rfl
@[simp] theorem State.keypadWriteAll_idx (s : State) (keys : Vector Bool 16) : (s.keypadWriteAll keys).idx = s.idx := rfl
@[simp] theorem State.keypadWriteAll_pc (s : State) (keys : Vector Bool 16) : (s.keypadWriteAll keys).pc = s.pc := rfl
@[simp] theorem State.keypadWriteAll_stack (s : State) (keys : Vector Bool 16) : (s.keypadWriteAll keys).stack = s.stack := rfl
@[simp] theorem State.keypadWriteAll_sp (s : State) (keys : Vector Bool 16) : (s.keypadWriteAll keys).sp = s.sp := rfl
@[simp] theorem State.keypadWriteAll_dt (s : State) (keys : Vector Bool 16) : (s.keypadWriteAll keys).dt = s.dt := rfl
@[simp] theorem State.keypadWriteAll_st (s : State) (keys : Vector Bool 16) : (s.keypadWriteAll keys).st = s.st := rfl
@[simp] theorem State.keypadWriteAll_fb (s : State) (keys : Vector Bool 16) : (s.keypadWriteAll keys).fb = s.fb := rfl
@[simp] theorem State.keypadWriteAll_keypad (s : State) (keys : Vector Bool 16) : (s.keypadWriteAll keys).keypad = keys := rfl
@[simp] theorem State.keypadWriteAll_drawPending (s : State) (keys : Vector Bool 16) : (s.keypadWriteAll keys).drawPending = s.drawPending := rfl
@[simp] theorem State.keypadWriteAll_draws (s : State) (keys : Vector Bool 16) : (s.keypadWriteAll keys).draws = s.draws := rfl

@[simp] theorem State.skipIf_mem (s : State) (c : Bool) : (s.skipIf c).mem = s.mem := by
  cases c <;> rfl
@[simp] theorem State.skipIf_v (s : State) (c : Bool) : (s.skipIf c).v = s.v := by
  cases c <;> rfl
@[simp] theorem State.skipIf_idx (s : State) (c : Bool) : (s.skipIf c).idx = s.idx := by
  cases c <;> rfl
@[simp] theorem State.skipIf_stack (s : State) (c : Bool) : (s.skipIf c).stack = s.stack := by
  cases c <;> rfl
@[simp] theorem State.skipIf_sp (s : State) (c : Bool) : (s.skipIf c).sp = s.sp := by
  cases c <;> rfl
@[simp] theorem State.skipIf_dt (s : State) (c : Bool) : (s.skipIf c).dt = s.dt := by
  cases c <;> rfl
@[simp] theorem State.skipIf_st (s : State) (c : Bool) : (s.skipIf c).st = s.st := by
  cases c <;> rfl
@[simp] theorem State.skipIf_fb (s : State) (c : Bool) : (s.skipIf c).fb = s.fb := by
  cases c <;> rfl
@[simp] theorem State.skipIf_keypad (s : State) (c : Bool) : (s.skipIf c).keypad = s.keypad := by
  cases c <;> rfl
@[simp] theorem State.skipIf_drawPending (s : State) (c : Bool) : (s.skipIf c).drawPending = s.drawPending := by
  cases c <;> rfl
@[simp] theorem State.skipIf_draws (s : State) (c : Bool) : (s.skipIf c).draws = s.draws := by
  cases c <;> rfl

theorem State.skipIf_pc (s : State) (c : Bool) :
    (s.skipIf c).pc = BitVec.ofNat 16 ((s.pc.toNat + if c then 4 else 2) % 4096) := by
  cases c <;> rfl

/-- A stored program counter or index is the written number modulo 4096 (R24, R25). -/
theorem toNat_ofNat_mod_4096 (n : Nat) : (BitVec.ofNat 16 (n % 4096)).toNat = n % 4096 := by
  rw [BitVec.toNat_ofNat]
  exact Nat.mod_eq_of_lt (Nat.lt_trans (Nat.mod_lt n (by decide)) (by decide))

/-! ### The register file -/

theorem State.getV_eq (s : State) (k : Reg) : s.getV k = s.v[k.toNat]'k.isLt := rfl

/-- A register reads as its last write; the others are unchanged. -/
theorem State.getV_setV (s : State) (x k : Reg) (u : Byte) :
    (s.setV x u).getV k = if k = x then u else s.getV k := by
  simp only [State.getV_eq, State.setV_v, Vector.getElem_set]
  by_cases h : k = x
  · simp [h]
  · have : x.toNat ≠ k.toNat := fun e => h (BitVec.eq_of_toNat_eq e.symm)
    simp [h, this]

@[simp] theorem State.getV_setV_self (s : State) (x : Reg) (u : Byte) : (s.setV x u).getV x = u := by
  simp [State.getV_setV]

theorem State.getV_setFlag (s : State) (c : Bool) (k : Reg) :
    (s.setFlag c).getV k = if k = 0xF then (if c then 1 else 0) else s.getV k :=
  State.getV_setV s flagReg k _

/-- Two records with the same register file read the same. -/
theorem State.getV_congr {s t : State} (h : t.v = s.v) (k : Reg) : t.getV k = s.getV k := by
  simp [State.getV_eq, h]

@[simp] theorem State.getV_setPc (s : State) (n : Nat) (k : Reg) : (s.setPc n).getV k = s.getV k := rfl
@[simp] theorem State.getV_setIdx (s : State) (n : Nat) (k : Reg) : (s.setIdx n).getV k = s.getV k := rfl
@[simp] theorem State.getV_setDt (s : State) (u : Byte) (k : Reg) : (s.setDt u).getV k = s.getV k := rfl
@[simp] theorem State.getV_setSt (s : State) (u : Byte) (k : Reg) : (s.setSt u).getV k = s.getV k := rfl
@[simp] theorem State.getV_setMem (s : State) (m : Memory) (k : Reg) : (s.setMem m).getV k = s.getV k := rfl
@[simp] theorem State.getV_setPicture (s : State) (fb : Framebuffer) (k : Reg) : (s.setPicture fb).getV k = s.getV k := rfl
@[simp] theorem State.getV_advance (s : State) (k : Reg) : (s.advance).getV k = s.getV k := rfl
@[simp] theorem State.getV_timerTick (s : State) (k : Reg) : (s.timerTick).getV k = s.getV k := rfl
@[simp] theorem State.getV_clearDrawPending (s : State) (k : Reg) : (s.clearDrawPending).getV k = s.getV k := rfl
@[simp] theorem State.getV_keypadWrite (s : State) (j : Fin 16) (p : Bool) (k : Reg) : (s.keypadWrite j p).getV k = s.getV k := rfl
@[simp] theorem State.getV_keypadWriteAll (s : State) (keys : Vector Bool 16) (k : Reg) : (s.keypadWriteAll keys).getV k = s.getV k := rfl

@[simp] theorem State.getV_skipIf (s : State) (c : Bool) (k : Reg) : (s.skipIf c).getV k = s.getV k := by
  cases c <;> rfl

end Sys2Proof.Machine
end

