-- ==== Sys2Proof/Laws/Operands.lean ====
section
/-! SUPPORT. The operand forms: the bytes `FX55` stores, the registers `FX65` leaves, the keypad, and one plotted pixel. -/

namespace Sys2Proof.Machine

/-! ### Registers and memory at `I` -/

@[simp] theorem State.length_regBytes (s : State) (x : Reg) : (s.regBytes x).length = x.toNat + 1 := by
  have := x.isLt
  simp [State.regBytes]
  omega

/-- Byte `k` of the bytes `FX55` stores is `V[k]`. -/
theorem State.getD_regBytes (s : State) (x k : Reg) (h : k.toNat ≤ x.toNat) :
    (s.regBytes x).getD k.toNat 0 = s.getV k := by
  have hk := k.isLt
  have hl : k.toNat < (s.regBytes x).length := by
    rw [State.length_regBytes]
    omega
  rw [List.getD_eq_getElem _ _ hl]
  simp [State.regBytes, State.getV_eq]

@[simp] theorem length_bcdDigits (a : Byte) : (bcdDigits a).length = 3 := rfl

/-- What `FX65` leaves in the register file: the bytes at `i` in the first `n`, the old values above. -/
theorem getElem_loadRegs (m : Memory) (i n : Nat) (v : Vector Byte 16) (k : Nat) (hk : k < 16) :
    (loadRegs m i n v)[k] = if k < n then m.read (i + k) else v[k] := by
  unfold loadRegs
  induction n with
  | zero => simp
  | succ n ih =>
    rw [List.range_succ, List.foldl_append, List.foldl_cons, List.foldl_nil, Vector.getElem_setIfInBounds, ih]
    by_cases h : n = k
    · subst h
      simp
    · by_cases h' : k < n
      · simp [h, h', Nat.lt_succ_of_lt h']
      · have : ¬ k < n + 1 := by omega
        simp [h, h', this]

/-! ### The keypad -/

theorem State.keyDown_eq (s : State) (k : Fin 16) : s.keyDown k.val = s.keypad[k] := by
  have hk := k.isLt
  unfold State.keyDown
  rw [List.getD_eq_getElem _ _ (by simp)]
  simp

/-- No lowest key means that no key is pressed. -/
theorem State.lowestKey_eq_none (s : State) : s.lowestKey = none ↔ ∀ k : Fin 16, s.keypad[k] = false := by
  unfold State.lowestKey
  rw [List.findIdx?_eq_none_iff]
  constructor
  · intro h k
    exact h _ (by simp)
  · intro h b hb
    obtain ⟨i, hi, rfl⟩ := List.mem_iff_getElem.1 hb
    simp only [Vector.length_toList, Vector.getElem_toList] at hi ⊢
    exact h ⟨i, hi⟩

/-- The lowest key is pressed and every key below it is not. -/
theorem State.lowestKey_eq_some (s : State) (k : Fin 16) :
    s.lowestKey = some k.val ↔ s.keypad[k] = true ∧ ∀ j : Fin 16, j < k → s.keypad[j] = false := by
  unfold State.lowestKey
  rw [List.findIdx?_eq_some_iff_getElem]
  constructor
  · rintro ⟨hk, h, hl⟩
    refine ⟨by simpa using h, fun j hj => ?_⟩
    simpa using hl j.val hj
  · rintro ⟨h, hl⟩
    refine ⟨by simp, by simpa using h, fun j hj => ?_⟩
    simpa using hl ⟨j, by omega⟩ hj

/-! ### Pixels -/

theorem getLsbD_xor_twoPow (r : BitVec 64) (i j : Nat) (hj : j < 64) :
    (r ^^^ BitVec.twoPow 64 i).getLsbD j = (r.getLsbD j ^^ decide (i = j)) := by
  rw [BitVec.getLsbD_xor, BitVec.getLsbD_twoPow]
  by_cases h : i = j
  · subst h
    simp [hj]
  · simp [h]

/-- A flip changes the pixel it names, coordinates taken modulo 64 and 32, and no other. -/
theorem Framebuffer.pixel_flip (fb : Framebuffer) (x y px py : Nat) :
    Framebuffer.pixel (fb.flip x y) px py = (fb.pixel px py ^^ decide (x % 64 = px % 64 ∧ y % 32 = py % 32)) := by
  unfold Framebuffer.pixel Framebuffer.flip
  rw [Vector.getElem_set]
  by_cases hy : y % 32 = py % 32
  · simp only [hy, if_true, and_true]
    rw [getLsbD_xor_twoPow _ _ _ (Nat.mod_lt _ (by decide))]
  · simp [hy]

@[simp] theorem Framebuffer.pixel_clear (px py : Nat) : Framebuffer.pixel Framebuffer.clear px py = false := by
  simp [Framebuffer.pixel, Framebuffer.clear]

/-- Two framebuffers with the same pixels are the same. -/
theorem Framebuffer.ext_pixel {a b : Framebuffer}
    (h : ∀ px py : Nat, px < 64 → py < 32 → a.pixel px py = b.pixel px py) : a = b := by
  apply Vector.ext
  intro y hy
  apply BitVec.eq_of_getLsbD_eq
  intro x hx
  have := h x y hx hy
  simpa [Framebuffer.pixel, Nat.mod_eq_of_lt hx, Nat.mod_eq_of_lt hy] using this

end Sys2Proof.Machine
end

