-- ==== Sys2Proof/Laws/Drawing.lean ====
section
/-! SUPPORT. What drawing leaves, said once: a plotted row, a plotted sprite, pixel by pixel, and when the collision flag is
set (44_display.md R211 to R214). The pixels of one sprite are all different, so each is judged against the old picture. -/

namespace Sys2Proof.Machine

/-! ### Pixel coordinates are taken modulo 64 and 32 (R212) -/

theorem Framebuffer.pixel_mod (fb : Framebuffer) (x y : Nat) :
    Framebuffer.pixel fb (x % 64) (y % 32) = Framebuffer.pixel fb x y := by
  simp [Framebuffer.pixel]

theorem Framebuffer.pixel_congr (fb : Framebuffer) {x y px py : Nat} (hx : x % 64 = px % 64) (hy : y % 32 = py % 32) :
    Framebuffer.pixel fb x y = Framebuffer.pixel fb px py := by
  rw [← Framebuffer.pixel_mod, hx, hy, Framebuffer.pixel_mod]

/-- Counting one further: below `n + 1` is below `n` or `n` itself. -/
theorem exists_lt_succ (n : Nat) (P : Nat → Prop) : (∃ c, c < n + 1 ∧ P c) ↔ (∃ c, c < n ∧ P c) ∨ P n := by
  constructor
  · rintro ⟨c, hc, h⟩
    rcases Nat.lt_succ_iff_lt_or_eq.mp hc with hc | rfl
    · exact .inl ⟨c, hc, h⟩
    · exact .inr h
  · rintro (⟨c, hc, h⟩ | h)
    · exact ⟨c, by omega, h⟩
    · exact ⟨n, by omega, h⟩

/-- Flipping where `p` holds, then where `q` holds, is flipping where `p` or `q` holds when they exclude each other. -/
theorem flip_flip {a p q : Prop} (h : q → ¬ p) : ¬ (¬ (a ↔ p) ↔ q) ↔ ¬ (a ↔ (p ∨ q)) := by
  by_cases ha : a <;> by_cases hp : p <;> by_cases hq : q <;> simp_all

/-- Nothing flips where `p` does not hold. -/
theorem flip_not {a p : Prop} (h : ¬ p) : ¬ (a ↔ p) ↔ a := by
  by_cases ha : a <;> simp [ha, h]

/-! ### One pixel -/

/-- A plot flips the pixel it names and no other. -/
theorem Drawing.pixel_plot (d : Drawing) (x y px py : Nat) :
    Framebuffer.pixel (d.plot x y).fb px py = true ↔
      ¬ (Framebuffer.pixel d.fb px py = true ↔ x % 64 = px % 64 ∧ y % 32 = py % 32) := by
  rw [Drawing.plot, Framebuffer.pixel_flip]
  by_cases h : x % 64 = px % 64 ∧ y % 32 = py % 32 <;> simp [h]

/-- A plot hits when the pixel it names was set. -/
theorem Drawing.hit_plot (d : Drawing) (x y : Nat) :
    (d.plot x y).hit = true ↔ d.hit = true ∨ Framebuffer.pixel d.fb x y = true := by
  simp [Drawing.plot]

/-! ### One row -/

/-- Columns `0` to `n - 1` of a row, drawn one by one. -/
theorem Drawing.columns (d : Drawing) (b : Byte) (x0 y n : Nat) (hn : n ≤ 64) (e : Drawing)
    (he : (List.range n).foldl (fun d c => if spriteBit b c then d.plot (x0 + c) y else d) d = e) :
    (∀ px py : Nat, Framebuffer.pixel e.fb px py = true ↔
      ¬ (Framebuffer.pixel d.fb px py = true ↔
        y % 32 = py % 32 ∧ ∃ c, c < n ∧ spriteBit b c = true ∧ (x0 + c) % 64 = px % 64)) ∧
    (e.hit = true ↔
      d.hit = true ∨ ∃ c, c < n ∧ spriteBit b c = true ∧ Framebuffer.pixel d.fb (x0 + c) y = true) := by
  induction n generalizing e with
  | zero =>
    subst he
    simp
  | succ n ih =>
    rw [List.range_succ, List.foldl_append] at he
    obtain ⟨ihp, ihh⟩ := ih (by omega) _ rfl
    generalize (List.range n).foldl (fun d c => if spriteBit b c then d.plot (x0 + c) y else d) d = f at he ihp ihh
    subst he
    simp only [List.foldl_cons, List.foldl_nil, exists_lt_succ]
    by_cases hb : spriteBit b n = true
    · have hfar : ∀ px : Nat, (x0 + n) % 64 = px % 64 →
          ¬ ∃ c, c < n ∧ spriteBit b c = true ∧ (x0 + c) % 64 = px % 64 := by
        rintro px hpx ⟨c, hc, -, h⟩
        omega
      simp only [hb, if_true, true_and]
      refine ⟨fun px py => ?_, ?_⟩
      · rw [Drawing.pixel_plot, ihp, flip_flip (fun h k => hfar px h.1 k.2), and_or_left,
          and_comm (a := y % 32 = py % 32) (b := (x0 + n) % 64 = px % 64)]
      · rw [Drawing.hit_plot, ihh, ihp, flip_not (fun k => hfar (x0 + n) rfl k.2), or_assoc]
    · simp only [hb, Bool.false_eq_true, if_false, false_and, or_false]
      exact ⟨ihp, ihh⟩

/-- A row flips the pixels under its 1 bits and no other. -/
theorem Drawing.pixel_row (d : Drawing) (b : Byte) (x0 y px py : Nat) :
    Framebuffer.pixel (d.row b x0 y).fb px py = true ↔
      ¬ (Framebuffer.pixel d.fb px py = true ↔
        y % 32 = py % 32 ∧ ∃ c, c < 8 ∧ spriteBit b c = true ∧ (x0 + c) % 64 = px % 64) :=
  (Drawing.columns d b x0 y 8 (by decide) _ rfl).1 px py

/-- A row hits when some pixel under its 1 bits was set. -/
theorem Drawing.hit_row (d : Drawing) (b : Byte) (x0 y : Nat) :
    (d.row b x0 y).hit = true ↔
      d.hit = true ∨ ∃ c, c < 8 ∧ spriteBit b c = true ∧ Framebuffer.pixel d.fb (x0 + c) y = true :=
  (Drawing.columns d b x0 y 8 (by decide) _ rfl).2

/-! ### A sprite -/

/-- Rows `0` to `n - 1` of a sprite of at most 32 rows, drawn one by one. -/
theorem Drawing.rows (d : Drawing) (m : Memory) (i n x0 y0 : Nat) (hn : n ≤ 32) (e : Drawing)
    (he : d.sprite m i n x0 y0 = e) :
    (∀ px py : Nat, Framebuffer.pixel e.fb px py = true ↔
      ¬ (Framebuffer.pixel d.fb px py = true ↔ ∃ r, r < n ∧ ((y0 + r) % 32 = py % 32 ∧
        ∃ c, c < 8 ∧ spriteBit (m.read (i + r)) c = true ∧ (x0 + c) % 64 = px % 64))) ∧
    (e.hit = true ↔
      d.hit = true ∨ ∃ r, r < n ∧ ∃ c, c < 8 ∧ spriteBit (m.read (i + r)) c = true ∧
        Framebuffer.pixel d.fb (x0 + c) (y0 + r) = true) := by
  unfold Drawing.sprite at he
  induction n generalizing e with
  | zero =>
    subst he
    simp
  | succ n ih =>
    rw [List.range_succ, List.foldl_append] at he
    obtain ⟨ihp, ihh⟩ := ih (by omega) _ rfl
    generalize (List.range n).foldl (fun d r => d.row (m.read (i + r)) x0 (y0 + r)) d = f at he ihp ihh
    subst he
    simp only [List.foldl_cons, List.foldl_nil]
    have hfar : ∀ px py : Nat, (y0 + n) % 32 = py % 32 → ¬ ∃ r, r < n ∧ ((y0 + r) % 32 = py % 32 ∧
        ∃ c, c < 8 ∧ spriteBit (m.read (i + r)) c = true ∧ (x0 + c) % 64 = px % 64) := by
      rintro px py hpy ⟨r, hr, h, -⟩
      omega
    refine ⟨fun px py => ?_, ?_⟩
    · rw [Drawing.pixel_row, ihp, exists_lt_succ n, flip_flip (fun h => hfar px py h.1)]
    · have hp : ∀ c : Nat, Framebuffer.pixel f.fb (x0 + c) (y0 + n) = Framebuffer.pixel d.fb (x0 + c) (y0 + n) := by
        intro c
        rw [Bool.eq_iff_iff, ihp, flip_not (hfar (x0 + c) (y0 + n) rfl)]
      rw [Drawing.hit_row, ihh, exists_lt_succ n, or_assoc]
      simp only [hp]

/-- What a sprite leaves, pixel by pixel: flipped when some row and column of it name the pixel with a 1 bit. -/
theorem Drawing.pixel_sprite (d : Drawing) (m : Memory) (i n x0 y0 : Nat) (hn : n ≤ 32) (px py : Nat) :
    Framebuffer.pixel (d.sprite m i n x0 y0).fb px py = true ↔
      ¬ (Framebuffer.pixel d.fb px py = true ↔ ∃ r, r < n ∧ ((y0 + r) % 32 = py % 32 ∧
        ∃ c, c < 8 ∧ spriteBit (m.read (i + r)) c = true ∧ (x0 + c) % 64 = px % 64)) :=
  (Drawing.rows d m i n x0 y0 hn _ rfl).1 px py

/-- A sprite hits when some pixel under its 1 bits was set. -/
theorem Drawing.hit_sprite (d : Drawing) (m : Memory) (i n x0 y0 : Nat) (hn : n ≤ 32) :
    (d.sprite m i n x0 y0).hit = true ↔
      d.hit = true ∨ ∃ r, r < n ∧ ∃ c, c < 8 ∧ spriteBit (m.read (i + r)) c = true ∧
        Framebuffer.pixel d.fb (x0 + c) (y0 + r) = true :=
  (Drawing.rows d m i n x0 y0 hn _ rfl).2

end Sys2Proof.Machine
end

