-- ==== Sys2Proof/Laws/Flags.lean ====
section
/-! SUPPORT. The arithmetic results as numbers, and what the two orders of writing a result and the flag leave. -/

namespace Sys2Proof.Machine

theorem toNat_addByte (a b : Byte) : (addByte a b).toNat = (a.toNat + b.toNat) % 256 := by
  unfold addByte
  rw [BitVec.toNat_ofNat]
  omega

theorem toNat_subByte (a b : Byte) : (subByte a b).toNat = (a.toNat + 256 - b.toNat) % 256 := by
  unfold subByte
  rw [BitVec.toNat_ofNat]
  omega

theorem toNat_shrByte (a : Byte) : (shrByte a).toNat = a.toNat / 2 := by
  have := a.isLt
  unfold shrByte
  rw [BitVec.toNat_ofNat]
  omega

theorem toNat_shlByte (a : Byte) : (shlByte a).toNat = a.toNat * 2 % 256 := by
  unfold shlByte
  rw [BitVec.toNat_ofNat]
  omega

theorem lowBit_eq (a : Byte) : lowBit a = decide (a.toNat % 2 = 1) := by
  simp [lowBit, BitVec.getLsbD, Nat.testBit_zero]

theorem highBit_eq (a : Byte) : highBit a = decide (128 ≤ a.toNat) := by
  have := a.isLt
  rw [highBit, BitVec.getLsbD, Nat.testBit_eq_decide_div_mod_eq, decide_eq_decide]
  omega

theorem carry_iff (a b : Byte) : carry a b = true ↔ 255 < a.toNat + b.toNat := decide_eq_true_iff

theorem noBorrow_iff (a b : Byte) : noBorrow a b = true ↔ b.toNat ≤ a.toNat := by
  simp [noBorrow]

theorem idxOverflow_iff (s : State) (a : Byte) : idxOverflow s a = true ↔ 0xFFF < s.idx.toNat + a.toNat :=
  decide_eq_true_iff

/-- Result first, flag second: the flag is in `VF`, the result in `VX` unless `X = 0xF` (R173). -/
theorem State.getV_resultThenFlag (s : State) (x k : Reg) (r : Byte) (c : Bool) :
    (s.resultThenFlag x r c).getV k = if k = 0xF then (if c then 1 else 0) else if k = x then r else s.getV k := by
  simp [State.resultThenFlag, State.getV_setFlag, State.getV_setV]

/-- Flag first, result second: the result is in `VX`, the flag in `VF` unless `X = 0xF` (R173). -/
theorem State.getV_flagThenResult (s : State) (x k : Reg) (r : Byte) (c : Bool) :
    (s.flagThenResult x r c).getV k = if k = x then r else if k = 0xF then (if c then 1 else 0) else s.getV k := by
  simp [State.flagThenResult, State.getV_setFlag, State.getV_setV]

end Sys2Proof.Machine
end

