-- ==== Sys2Proof/Laws/Memory.lean ====
section
/-! SUPPORT. The laws of memory: a read after a write, what a run of stored bytes reads as, and that every memory operation
keeps the canonical form. -/

namespace Sys2Proof.Machine

/-! ### The canonical form, one entry at a time -/

theorem Memory.wf_nil : Memory.wf [] := by simp [Memory.wf]

theorem Memory.wf_cons {b : Nat} {c : Byte} {m : Memory} :
    Memory.wf ((b, c) :: m) ↔
      (∀ d ∈ m, b < d.1) ∧ b < Config.memSize ∧ c ≠ Memory.unlisted b ∧ Memory.wf m := by
  simp only [Memory.wf, List.pairwise_cons, List.forall_mem_cons]
  tauto

/-- An address below every listed one reads as its reset contents. -/
theorem Memory.read_of_lt {m : Memory} {a : Nat} (h : ∀ d ∈ m, a < d.1) : m.read a = Memory.unlisted a := by
  induction m with
  | nil => rfl
  | cons d m ih =>
    have hd := h d (List.mem_cons_self ..)
    rw [Memory.read, if_neg (Nat.ne_of_lt hd)]
    exact ih fun e he => h e (List.mem_cons_of_mem _ he)

/-! ### Write -/

/-- Every entry after a write is an old one or the written one. -/
theorem Memory.mem_write {m : Memory} {a : Nat} {u : Byte} {d : Host.Cell} (h : d ∈ m.write a u) :
    d ∈ m ∨ d = (a, u) := by
  induction m with
  | nil =>
    rw [Memory.write] at h
    split at h <;> simp_all
  | cons e m ih =>
    obtain ⟨b, c⟩ := e
    rw [Memory.write] at h
    split at h
    · split at h
      · exact .inl h
      · rcases List.mem_cons.mp h with rfl | h
        · exact .inr rfl
        · exact .inl h
    · split at h
      · split at h
        · exact .inl (List.mem_cons_of_mem _ h)
        · rcases List.mem_cons.mp h with rfl | h
          · exact .inr rfl
          · exact .inl (List.mem_cons_of_mem _ h)
      · rcases List.mem_cons.mp h with rfl | h
        · exact .inl (List.mem_cons_self ..)
        · exact (ih h).imp (List.mem_cons_of_mem _) id

/-- A write keeps the canonical form. -/
theorem Memory.wf_write {m : Memory} (h : m.wf) {a : Nat} (ha : a < Config.memSize) (u : Byte) :
    (m.write a u).wf := by
  induction m with
  | nil =>
    rw [Memory.write]
    split
    · exact Memory.wf_nil
    · next hu => exact Memory.wf_cons.mpr ⟨by simp, ha, hu, Memory.wf_nil⟩
  | cons e m ih =>
    obtain ⟨b, c⟩ := e
    obtain ⟨hb, hlt, hc, hm⟩ := Memory.wf_cons.mp h
    rw [Memory.write]
    split
    · next hab =>
      split
      · exact h
      · next hu =>
        refine Memory.wf_cons.mpr ⟨?_, ha, hu, h⟩
        intro d hd
        rcases List.mem_cons.mp hd with rfl | hd
        · exact hab
        · exact Nat.lt_trans hab (hb d hd)
    · split
      · next hab =>
        subst hab
        split
        · exact hm
        · next hu => exact Memory.wf_cons.mpr ⟨hb, ha, hu, hm⟩
      · next h1 h2 =>
        refine Memory.wf_cons.mpr ⟨?_, hlt, hc, ih hm⟩
        intro d hd
        rcases Memory.mem_write hd with hd | rfl
        · exact hb d hd
        · exact Nat.lt_of_le_of_ne (Nat.le_of_not_lt h1) (Ne.symm h2)

/-- A read after a write: the byte written at its own address, the old byte at every other. -/
theorem Memory.read_write (m : Memory) (h : m.wf) (a b : Nat) (u : Byte) :
    (m.write a u).read b = if b = a then u else m.read b := by
  induction m with
  | nil =>
    rw [Memory.write]
    split
    · next hu => by_cases hb : b = a <;> simp [Memory.read, hb, hu]
    · simp [Memory.read]
  | cons e m ih =>
    obtain ⟨d, c⟩ := e
    obtain ⟨hd, _, _, hm⟩ := Memory.wf_cons.mp h
    rw [Memory.write]
    split
    · next had =>
      split
      · next hu =>
        by_cases hb : b = a
        · subst hb
          rw [Memory.read, if_neg (Nat.ne_of_lt had), if_pos rfl, hu]
          exact Memory.read_of_lt fun e he => Nat.lt_trans had (hd e he)
        · rw [if_neg hb]
      · rw [Memory.read]
    · split
      · next had =>
        subst had
        split
        · next hu =>
          by_cases hb : b = a
          · subst hb
            rw [if_pos rfl, hu]
            exact Memory.read_of_lt hd
          · simp [Memory.read, hb]
        · by_cases hb : b = a <;> simp [Memory.read, hb]
      · next h1 h2 =>
        rw [Memory.read, Memory.read, ih hm]
        by_cases hb : b = d
        · subst hb
          simp [Ne.symm h2]
        · simp [hb]

/-! ### Runs of bytes -/

theorem Memory.wf_writeBytes {m : Memory} (h : m.wf) {a : Nat} {us : List Byte} (ha : a + us.length ≤ Config.memSize) :
    (m.writeBytes a us).wf := by
  induction us generalizing m a with
  | nil => exact h
  | cons u us ih =>
    rw [List.length_cons] at ha
    exact ih (Memory.wf_write h (by omega) u) (by omega)

/-- What memory reads as after bytes are stored at `a`: the bytes there, and the old contents elsewhere. -/
theorem Memory.read_writeBytes {m : Memory} (h : m.wf) {a : Nat} {us : List Byte}
    (ha : a + us.length ≤ Config.memSize) (b : Nat) :
    (m.writeBytes a us).read b = if a ≤ b ∧ b < a + us.length then us.getD (b - a) 0 else m.read b := by
  induction us generalizing m a with
  | nil =>
    rw [Memory.writeBytes, if_neg]
    rw [List.length_nil]
    omega
  | cons u us ih =>
    rw [List.length_cons] at ha ⊢
    rw [Memory.writeBytes, ih (Memory.wf_write h (by omega) u) (by omega), Memory.read_write m h]
    by_cases hb : b = a
    · subst hb
      rw [if_neg (by omega), if_pos rfl, if_pos (by omega), Nat.sub_self, List.getD_cons_zero]
    · by_cases hin : a + 1 ≤ b ∧ b < a + 1 + us.length
      · rw [if_pos hin, if_pos (by omega), show b - a = (b - (a + 1)) + 1 by omega, List.getD_cons_succ]
      · rw [if_neg hin, if_neg hb, if_neg (by omega)]

/-- The record after reset has the canonical form. -/
theorem State.reset_mem_wf : State.reset.mem.wf := Memory.wf_nil

end Sys2Proof.Machine
end

