-- ==== Sys2Proof/Laws/OpcodeMap.lean ====
section
/-! SUPPORT. The opcode map as data (30_encoding.md R94, R95): what a row accepts, that no two rows accept one word, and that
every instruction's row is in the table. -/

namespace Sys2Proof

theorem OpRow.accepts_iff (r : OpRow) (w : Word) : r.accepts w = true ↔ w &&& r.mask = r.bits := by
  simp [OpRow.accepts]

/-- A word accepted by two rows shows the same bits to both. -/
theorem OpRow.agree {r q : OpRow} {w : Word} (hr : r.accepts w = true) (hq : q.accepts w = true) :
    q.mask &&& r.bits = r.mask &&& q.bits := by
  rw [OpRow.accepts_iff] at hr hq
  rw [← hr, ← hq]
  ac_rfl

/-- No two rows of the table overlap: some bit both look at differs. -/
theorem opcodeRows_disjoint : opcodeRows.Pairwise (fun r q => q.mask &&& r.bits ≠ r.mask &&& q.bits) := by
  decide

/-- Every instruction stands for a row of the table. -/
theorem Instr.rowIndex_lt (i : Instr) : i.rowIndex < opcodeRows.length := by
  have h : opcodeRows.length = 34 := by decide
  rw [h]
  cases i <;> simp [Instr.rowIndex]

theorem Instr.row_mem (i : Instr) : i.row ∈ opcodeRows := by
  rw [Instr.row, List.getD_eq_getElem _ _ i.rowIndex_lt]
  exact List.getElem_mem _

/-! ### Fields of a masked word -/

theorem Word.op_and (v w : Word) : Word.op (v &&& w) = Word.op v &&& Word.op w := BitVec.extractLsb'_and

theorem Word.n_and (v w : Word) : Word.n (v &&& w) = Word.n v &&& Word.n w := BitVec.extractLsb'_and

theorem Word.nn_and (v w : Word) : Word.nn (v &&& w) = Word.nn v &&& Word.nn w := BitVec.extractLsb'_and

end Sys2Proof
end

