-- ==== Sys2Proof/Laws/Ops.lean ====
section
/-! SUPPORT. One lemma per shared operation that says everything it can do; proofs about instructions cite these and do not
unfold the operation. -/

namespace Sys2Proof.Machine

/-! ### Ways an instruction can end -/

theorem checkTop_next {top : Nat} {t u : State} : checkTop top t = .next u ↔ top ≤ 0xFFF ∧ u = t := by
  unfold checkTop raise Config.maxAddr
  split <;> rename_i h
  · constructor
    · intro e
      cases e
    · omega
  · constructor
    · intro e
      cases e
      exact ⟨by omega, rfl⟩
    · rintro ⟨_, rfl⟩
      rfl

theorem checkTop_fault {top : Nat} {t : State} {e : Fault} :
    checkTop top t = .fault e ↔ 0xFFF < top ∧ e = .outOfBounds top := by
  unfold checkTop raise Config.maxAddr
  split <;> rename_i h
  · constructor
    · intro e
      cases e
      exact ⟨h, rfl⟩
    · rintro ⟨_, rfl⟩
      rfl
  · constructor
    · intro e
      cases e
    · omega

theorem checkTop_refused {top : Nat} {t : State} {r : Refusal} : checkTop top t ≠ .refused r := by
  unfold checkTop raise
  split <;> simp

/-- A push with room: the entry, the new `sp`, the target (R26, R142). -/
theorem State.pushAndGo_next {s : State} (h : s.sp.val < 16) (ret : Word) (target : Nat) :
    s.pushAndGo ret target =
      .next (State.setPc { s with stack := s.stack.set s.sp.val ret h, sp := ⟨s.sp.val + 1, by omega⟩ } target) := by
  rw [State.pushAndGo, dif_pos h]

/-- A push on a full stack (R282). -/
theorem State.pushAndGo_full {s : State} (h : s.sp.val = 16) (ret : Word) (target : Nat) :
    s.pushAndGo ret target = .fault .stackOverflow := by
  rw [State.pushAndGo, dif_neg (by omega)]
  rfl

/-- A pop with an entry (R26, R140). -/
theorem State.popAndGo_next {s : State} (h : 0 < s.sp.val) :
    s.popAndGo =
      .next (State.setPc { s with sp := ⟨s.sp.val - 1, by omega⟩ } (s.stack[s.sp.val - 1]'(by omega)).toNat) := by
  rw [State.popAndGo, dif_pos h]

/-- A pop from an empty stack (R283). -/
theorem State.popAndGo_empty {s : State} (h : s.sp.val = 0) : s.popAndGo = .fault .stackUnderflow := by
  rw [State.popAndGo, dif_neg (by omega)]
  rfl

/-! ### Fetch -/

theorem State.fetch_ok {s : State} (h : s.pc.toNat + 1 ≤ 0xFFF) :
    s.fetch = .ok (wordOfBytes (s.mem.read s.pc.toNat) (s.mem.read (s.pc.toNat + 1))) := by
  rw [State.fetch, if_neg (by unfold Config.maxAddr; omega)]

theorem State.fetch_error {s : State} (h : 0xFFF < s.pc.toNat + 1) :
    s.fetch = .error (.outOfBounds (s.pc.toNat + 1)) := by
  rw [State.fetch, if_pos (by unfold Config.maxAddr; omega)]

/-- The instruction a Step runs: the bytes at `pc` and `pc + 1` decode to it. -/
theorem State.fetchInstr_ok {s : State} {i : Instr} :
    s.fetchInstr = .ok i ↔
      s.pc.toNat + 1 ≤ 0xFFF ∧
        decode (wordOfBytes (s.mem.read s.pc.toNat) (s.mem.read (s.pc.toNat + 1))) = some i := by
  unfold State.fetchInstr
  by_cases h : s.pc.toNat + 1 ≤ 0xFFF
  · rw [State.fetch_ok h]
    dsimp only
    split <;> rename_i j hj <;> simp [h, hj]
  · rw [State.fetch_error (by omega)]
    simp [h]

/-- The errors of fetch and decode. -/
theorem State.fetchInstr_error {s : State} {e : Fault} :
    s.fetchInstr = .error e ↔
      (0xFFF < s.pc.toNat + 1 ∧ e = .outOfBounds (s.pc.toNat + 1)) ∨
        (s.pc.toNat + 1 ≤ 0xFFF ∧
          decode (wordOfBytes (s.mem.read s.pc.toNat) (s.mem.read (s.pc.toNat + 1))) = none ∧
            e = .unknownOpcode (wordOfBytes (s.mem.read s.pc.toNat) (s.mem.read (s.pc.toNat + 1)))) := by
  unfold State.fetchInstr
  by_cases h : s.pc.toNat + 1 ≤ 0xFFF
  · rw [State.fetch_ok h]
    dsimp only
    have h' : ¬ 0xFFF < s.pc.toNat + 1 := by omega
    split <;> rename_i hj <;> simp [h, h', hj, eq_comm]
  · have h' : 0xFFF < s.pc.toNat + 1 := by omega
    rw [State.fetch_error h']
    simp [h, h', eq_comm]

/-! ### Step -/

/-- Everything a Step that ends in a next state can do: it ran the fetched instruction, then ticked once. -/
theorem step_next {s t : State} :
    step s = .next t ↔ ∃ i u, s.fetchInstr = .ok i ∧ exec i s = .next u ∧ t = u.timerTick := by
  unfold step cycle
  cases hf : s.fetchInstr with
  | error e => simp [raise]
  | ok i => cases he : exec i s <;> simp [tickAfter, he, eq_comm]

/-- Everything a Step that ends in an error can do. -/
theorem step_fault {s : State} {e : Fault} :
    step s = .fault e ↔ s.fetchInstr = .error e ∨ ∃ i, s.fetchInstr = .ok i ∧ exec i s = .fault e := by
  unfold step cycle
  cases hf : s.fetchInstr with
  | error e => simp [raise]
  | ok i => cases he : exec i s <;> simp [tickAfter, he]

/-! ### Timers -/

/-- `max(u − 1, 0)` (R124). -/
theorem toNat_tickDown (u : Byte) : (tickDown u).toNat = u.toNat - 1 := by
  unfold tickDown
  split
  · next h => simp [h]
  · next h =>
    have h0 : u.toNat ≠ 0 := fun e => h (BitVec.eq_of_toNat_eq (by simpa using e))
    have := u.isLt
    have h1 : (1 : Byte).toNat = 1 := rfl
    rw [BitVec.toNat_sub, h1]
    omega

end Sys2Proof.Machine
end

