-- ==== Sys2Proof/Laws/PerInstr.lean ====
section
/-! SUPPORT. One lemma per instruction: its encoding is a word its own row of the opcode map accepts (30_encoding.md R102:
"`w = match OR` the operand fields"). -/

namespace Sys2Proof.Laws.EncodesToOwnRow

/-- The word `encode` gives matches the row of R95 the instruction stands for. -/
def Statement (i : Instr) : Prop := i.wellFormedWord (encode i) = true

/-! ### A word written digit by digit, under each shape of mask -/

theorem and_append {n m : Nat} (a c : BitVec n) (b d : BitVec m) : (a ++ b) &&& (c ++ d) = (a &&& c) ++ (b &&& d) := by
  apply BitVec.eq_of_getLsbD_eq
  intro j hj
  simp only [BitVec.getLsbD_and, BitVec.getLsbD_append]
  split <;> rfl

theorem masked_A (a : BitVec 4) (b : Addr) : (a ++ b : BitVec 16) &&& 0xF000#16 = a ++ 0#12 := by
  rw [show 0xF000#16 = 0xF#4 ++ 0#12 from rfl, and_append, BitVec.and_zero, show 0xF#4 = BitVec.allOnes 4 from rfl,
    BitVec.and_allOnes]

theorem masked_XI (a : BitVec 4) (x : Reg) (b : Byte) : (a ++ x ++ b : BitVec 16) &&& 0xF000#16 = a ++ 0#4 ++ 0#8 := by
  rw [show 0xF000#16 = 0xF#4 ++ 0#4 ++ 0#8 from rfl, and_append, and_append, BitVec.and_zero, BitVec.and_zero,
    show 0xF#4 = BitVec.allOnes 4 from rfl, BitVec.and_allOnes]

theorem masked_XF (a : BitVec 4) (x : Reg) (b : Byte) : (a ++ x ++ b : BitVec 16) &&& 0xF0FF#16 = a ++ 0#4 ++ b := by
  rw [show 0xF0FF#16 = 0xF#4 ++ 0#4 ++ 0xFF#8 from rfl, and_append, and_append, BitVec.and_zero,
    show 0xF#4 = BitVec.allOnes 4 from rfl, show 0xFF#8 = BitVec.allOnes 8 from rfl, BitVec.and_allOnes,
    BitVec.and_allOnes]

theorem masked_XY (a : BitVec 4) (x y : Reg) (n : BitVec 4) :
    (a ++ x ++ y ++ n : BitVec 16) &&& 0xF00F#16 = a ++ 0#4 ++ 0#4 ++ n := by
  rw [show 0xF00F#16 = 0xF#4 ++ 0#4 ++ 0#4 ++ 0xF#4 from rfl, and_append, and_append, and_append, BitVec.and_zero,
    BitVec.and_zero, show 0xF#4 = BitVec.allOnes 4 from rfl, BitVec.and_allOnes, BitVec.and_allOnes]

theorem masked_XYN (a : BitVec 4) (x y : Reg) (n : BitVec 4) :
    (a ++ x ++ y ++ n : BitVec 16) &&& 0xF000#16 = a ++ 0#4 ++ 0#4 ++ 0#4 := by
  rw [show 0xF000#16 = 0xF#4 ++ 0#4 ++ 0#4 ++ 0x0#4 from rfl, and_append, and_append, and_append, BitVec.and_zero,
    BitVec.and_zero, BitVec.and_zero, show 0xF#4 = BitVec.allOnes 4 from rfl, BitVec.and_allOnes]

/-! ### The 34 instructions -/

theorem cls : Statement .cls := rfl
theorem ret : Statement .ret := rfl
theorem jp (nnn : Addr) : Statement (.jp nnn) := beq_iff_eq.2 (masked_A 0x1 nnn)
theorem call (nnn : Addr) : Statement (.call nnn) := beq_iff_eq.2 (masked_A 0x2 nnn)
theorem seImm (x : Reg) (nn : Byte) : Statement (.seImm x nn) := beq_iff_eq.2 (masked_XI 0x3 x nn)
theorem sneImm (x : Reg) (nn : Byte) : Statement (.sneImm x nn) := beq_iff_eq.2 (masked_XI 0x4 x nn)
theorem seReg (x y : Reg) : Statement (.seReg x y) := beq_iff_eq.2 (masked_XY 0x5 x y 0x0)
theorem ldImm (x : Reg) (nn : Byte) : Statement (.ldImm x nn) := beq_iff_eq.2 (masked_XI 0x6 x nn)
theorem addImm (x : Reg) (nn : Byte) : Statement (.addImm x nn) := beq_iff_eq.2 (masked_XI 0x7 x nn)
theorem ldReg (x y : Reg) : Statement (.ldReg x y) := beq_iff_eq.2 (masked_XY 0x8 x y 0x0)
theorem orReg (x y : Reg) : Statement (.orReg x y) := beq_iff_eq.2 (masked_XY 0x8 x y 0x1)
theorem andReg (x y : Reg) : Statement (.andReg x y) := beq_iff_eq.2 (masked_XY 0x8 x y 0x2)
theorem xorReg (x y : Reg) : Statement (.xorReg x y) := beq_iff_eq.2 (masked_XY 0x8 x y 0x3)
theorem addReg (x y : Reg) : Statement (.addReg x y) := beq_iff_eq.2 (masked_XY 0x8 x y 0x4)
theorem sub (x y : Reg) : Statement (.sub x y) := beq_iff_eq.2 (masked_XY 0x8 x y 0x5)
theorem shr (x y : Reg) : Statement (.shr x y) := beq_iff_eq.2 (masked_XY 0x8 x y 0x6)
theorem subn (x y : Reg) : Statement (.subn x y) := beq_iff_eq.2 (masked_XY 0x8 x y 0x7)
theorem shl (x y : Reg) : Statement (.shl x y) := beq_iff_eq.2 (masked_XY 0x8 x y 0xe)
theorem sneReg (x y : Reg) : Statement (.sneReg x y) := beq_iff_eq.2 (masked_XY 0x9 x y 0x0)
theorem ldI (nnn : Addr) : Statement (.ldI nnn) := beq_iff_eq.2 (masked_A 0xa nnn)
theorem jpV0 (nnn : Addr) : Statement (.jpV0 nnn) := beq_iff_eq.2 (masked_A 0xb nnn)
theorem rnd (x : Reg) (nn : Byte) : Statement (.rnd x nn) := beq_iff_eq.2 (masked_XI 0xc x nn)
theorem drw (x y : Reg) (n : BitVec 4) : Statement (.drw x y n) := beq_iff_eq.2 (masked_XYN 0xd x y n)
theorem skp (x : Reg) : Statement (.skp x) := beq_iff_eq.2 (masked_XF 0xe x 0x9e)
theorem sknp (x : Reg) : Statement (.sknp x) := beq_iff_eq.2 (masked_XF 0xe x 0xa1)
theorem ldVxDt (x : Reg) : Statement (.ldVxDt x) := beq_iff_eq.2 (masked_XF 0xf x 0x7)
theorem ldVxK (x : Reg) : Statement (.ldVxK x) := beq_iff_eq.2 (masked_XF 0xf x 0xa)
theorem ldDtVx (x : Reg) : Statement (.ldDtVx x) := beq_iff_eq.2 (masked_XF 0xf x 0x15)
theorem ldStVx (x : Reg) : Statement (.ldStVx x) := beq_iff_eq.2 (masked_XF 0xf x 0x18)
theorem addI (x : Reg) : Statement (.addI x) := beq_iff_eq.2 (masked_XF 0xf x 0x1e)
theorem ldF (x : Reg) : Statement (.ldF x) := beq_iff_eq.2 (masked_XF 0xf x 0x29)
theorem ldB (x : Reg) : Statement (.ldB x) := beq_iff_eq.2 (masked_XF 0xf x 0x33)
theorem ldMemVx (x : Reg) : Statement (.ldMemVx x) := beq_iff_eq.2 (masked_XF 0xf x 0x55)
theorem ldVxMem (x : Reg) : Statement (.ldVxMem x) := beq_iff_eq.2 (masked_XF 0xf x 0x65)

end Sys2Proof.Laws.EncodesToOwnRow
end

