-- ==== Sys2Proof/Tests/Slice0.lean ====
section
/-! SUPPORT. Small tests, each on one word or one Step, with expected results from spec/95_test_vectors.md (the vector's id is
in the docstring) or from the encodings of spec/30_encoding.md, and one named witness for every set of hypotheses in the
obligations. -/

namespace Sys2Proof.Tests

open Sys2Proof.Machine

/-! ### Helpers -/

/-- One Step of the word `w`, placed where `s` fetches. -/
def run (w : Nat) (s : State) : StepReport := stepReport (s.withFetchWord 16 w)

/-- The record after that Step. -/
def after (w : Nat) (s : State) : State := (run w s).state

/-- The Step ends in this error, says no tone, and leaves the record as it was. -/
def failsWith (w : Nat) (s : State) (e : Fault) : Bool :=
  run w s == { state := s.withFetchWord 16 w, result := .error e, tone := false }

/-- The outcome is a next state. -/
def isNext : Result → Bool
  | .next _ => true
  | .fault _ => false
  | .refused _ => false

/-- The outcome is this fault. -/
def isFault (e : Fault) : Result → Bool
  | .next _ => false
  | .fault d => d == e
  | .refused _ => false

theorem exists_next {r : Result} (h : isNext r = true) : ∃ t, r = .next t := by
  cases r with
  | next t => exact ⟨t, rfl⟩
  | fault e => cases h
  | refused e => cases h

theorem eq_fault {r : Result} {e : Fault} (h : isFault e r = true) : r = .fault e := by
  cases r with
  | next t => cases h
  | fault d => rw [eq_of_beq h]
  | refused d => cases h

/-! ### Well-formed words: one unknown word of each of the six sets of 30_encoding.md R96 is refused -/

/-- S7, set (a). -/
theorem test_unknown_set_a : knownWord 0x0123 = false ∧ decode 0x0123 = none := by decide

/-- S7, set (b). -/
theorem test_unknown_set_b : knownWord 0x5AB1 = false ∧ decode 0x5AB1 = none := by decide

/-- S7, set (c). -/
theorem test_unknown_set_c : knownWord 0x8AB8 = false ∧ decode 0x8AB8 = none := by decide

/-- S7, set (d). -/
theorem test_unknown_set_d : knownWord 0x9AB1 = false ∧ decode 0x9AB1 = none := by decide

/-- S7, set (e). -/
theorem test_unknown_set_e : knownWord 0xEAA0 = false ∧ decode 0xEAA0 = none := by decide

/-- S7, set (f). -/
theorem test_unknown_set_f : knownWord 0xFA08 = false ∧ decode 0xFA08 = none := by decide

/-- `2234` is no encoding of `1NNN` (30_encoding.md R95). -/
theorem test_wrong_row :
    (Instr.jp 0x234).wellFormedWord 0x2234 = false ∧
    (Instr.jp 0x234).wellFormedWord 0x1234 = true := by decide

/-- An instruction is exactly two bytes (30_encoding.md R90). -/
theorem test_truncated :
    decodeBytes [0x12] = .error (.truncated 1) ∧
    decodeBytes [] = .error (.truncated 0) := by decide

/-- High byte first (20_memory.md R65); the rest is handed back. -/
theorem test_decode_rest : decodeBytes [0x12, 0x34, 0xAB] = .ok (.jp 0x234, [0xAB]) := by decide

/-- T32. -/
theorem test_unknown_bytes : decodeBytes [0x51, 0x21] = .error (.unknownOpcode 0x5121) := by decide

/-! ### Decode and encode: one word of each pattern, written out from the encodings of 30_encoding.md R95 (the words of S7) -/

theorem test_decode_cls : decodeTableWord 16 0x00E0 = some .cls ∧ encode .cls = 0x00E0 := by decide
theorem test_decode_ret : decodeTableWord 16 0x00EE = some .ret ∧ encode .ret = 0x00EE := by decide
theorem test_decode_jp : decodeTableWord 16 0x1234 = some (.jp 0x234) ∧ encode (.jp 0x234) = 0x1234 := by decide
theorem test_decode_call : decodeTableWord 16 0x2234 = some (.call 0x234) ∧ encode (.call 0x234) = 0x2234 := by decide
theorem test_decode_seImm : decodeTableWord 16 0x3A12 = some (.seImm 0xA 0x12) ∧ encode (.seImm 0xA 0x12) = 0x3A12 := by decide
theorem test_decode_sneImm : decodeTableWord 16 0x4A12 = some (.sneImm 0xA 0x12) ∧ encode (.sneImm 0xA 0x12) = 0x4A12 := by decide
theorem test_decode_seReg : decodeTableWord 16 0x5AB0 = some (.seReg 0xA 0xB) ∧ encode (.seReg 0xA 0xB) = 0x5AB0 := by decide
theorem test_decode_ldImm : decodeTableWord 16 0x6A12 = some (.ldImm 0xA 0x12) ∧ encode (.ldImm 0xA 0x12) = 0x6A12 := by decide
theorem test_decode_addImm : decodeTableWord 16 0x7A12 = some (.addImm 0xA 0x12) ∧ encode (.addImm 0xA 0x12) = 0x7A12 := by decide
theorem test_decode_ldReg : decodeTableWord 16 0x8AB0 = some (.ldReg 0xA 0xB) ∧ encode (.ldReg 0xA 0xB) = 0x8AB0 := by decide
theorem test_decode_orReg : decodeTableWord 16 0x8AB1 = some (.orReg 0xA 0xB) ∧ encode (.orReg 0xA 0xB) = 0x8AB1 := by decide
theorem test_decode_andReg : decodeTableWord 16 0x8AB2 = some (.andReg 0xA 0xB) ∧ encode (.andReg 0xA 0xB) = 0x8AB2 := by decide
theorem test_decode_xorReg : decodeTableWord 16 0x8AB3 = some (.xorReg 0xA 0xB) ∧ encode (.xorReg 0xA 0xB) = 0x8AB3 := by decide
theorem test_decode_addReg : decodeTableWord 16 0x8AB4 = some (.addReg 0xA 0xB) ∧ encode (.addReg 0xA 0xB) = 0x8AB4 := by decide
theorem test_decode_sub : decodeTableWord 16 0x8AB5 = some (.sub 0xA 0xB) ∧ encode (.sub 0xA 0xB) = 0x8AB5 := by decide
theorem test_decode_shr : decodeTableWord 16 0x8AB6 = some (.shr 0xA 0xB) ∧ encode (.shr 0xA 0xB) = 0x8AB6 := by decide
theorem test_decode_subn : decodeTableWord 16 0x8AB7 = some (.subn 0xA 0xB) ∧ encode (.subn 0xA 0xB) = 0x8AB7 := by decide
theorem test_decode_shl : decodeTableWord 16 0x8ABE = some (.shl 0xA 0xB) ∧ encode (.shl 0xA 0xB) = 0x8ABE := by decide
theorem test_decode_sneReg : decodeTableWord 16 0x9AB0 = some (.sneReg 0xA 0xB) ∧ encode (.sneReg 0xA 0xB) = 0x9AB0 := by decide
theorem test_decode_ldI : decodeTableWord 16 0xA123 = some (.ldI 0x123) ∧ encode (.ldI 0x123) = 0xA123 := by decide
theorem test_decode_jpV0 : decodeTableWord 16 0xB123 = some (.jpV0 0x123) ∧ encode (.jpV0 0x123) = 0xB123 := by decide
theorem test_decode_rnd : decodeTableWord 16 0xCA12 = some (.rnd 0xA 0x12) ∧ encode (.rnd 0xA 0x12) = 0xCA12 := by decide
theorem test_decode_drw : decodeTableWord 16 0xDAB5 = some (.drw 0xA 0xB 5) ∧ encode (.drw 0xA 0xB 5) = 0xDAB5 := by decide
theorem test_decode_skp : decodeTableWord 16 0xEA9E = some (.skp 0xA) ∧ encode (.skp 0xA) = 0xEA9E := by decide
theorem test_decode_sknp : decodeTableWord 16 0xEAA1 = some (.sknp 0xA) ∧ encode (.sknp 0xA) = 0xEAA1 := by decide
theorem test_decode_ldVxDt : decodeTableWord 16 0xFA07 = some (.ldVxDt 0xA) ∧ encode (.ldVxDt 0xA) = 0xFA07 := by decide
theorem test_decode_ldVxK : decodeTableWord 16 0xFA0A = some (.ldVxK 0xA) ∧ encode (.ldVxK 0xA) = 0xFA0A := by decide
theorem test_decode_ldDtVx : decodeTableWord 16 0xFA15 = some (.ldDtVx 0xA) ∧ encode (.ldDtVx 0xA) = 0xFA15 := by decide
theorem test_decode_ldStVx : decodeTableWord 16 0xFA18 = some (.ldStVx 0xA) ∧ encode (.ldStVx 0xA) = 0xFA18 := by decide
theorem test_decode_addI : decodeTableWord 16 0xFA1E = some (.addI 0xA) ∧ encode (.addI 0xA) = 0xFA1E := by decide
theorem test_decode_ldF : decodeTableWord 16 0xFA29 = some (.ldF 0xA) ∧ encode (.ldF 0xA) = 0xFA29 := by decide
theorem test_decode_ldB : decodeTableWord 16 0xFA33 = some (.ldB 0xA) ∧ encode (.ldB 0xA) = 0xFA33 := by decide
theorem test_decode_ldMemVx : decodeTableWord 16 0xFA55 = some (.ldMemVx 0xA) ∧ encode (.ldMemVx 0xA) = 0xFA55 := by decide
theorem test_decode_ldVxMem : decodeTableWord 16 0xFA65 = some (.ldVxMem 0xA) ∧ encode (.ldVxMem 0xA) = 0xFA65 := by decide

/-! ### Assembler labels (30_encoding.md R95, R100; the listings of P1 to P6) -/

/-- P1, P3. -/
theorem test_asm_imm :
    (Instr.ldImm 0 0x3E).asm = "LD V0, 0x3E" ∧
    (Instr.addImm 1 0xFF).asm = "ADD V1, 0xFF" := by decide

/-- P6. -/
theorem test_asm_draw : (Instr.drw 1 2 5).asm = "DRW V1, V2, 5" ∧ (Instr.jp 0x20A).asm = "JP 0x20A" := by decide

/-- 30_encoding.md R100: the ignored field is written only when it is not 0. -/
theorem test_asm_shift : (Instr.shr 1 0).asm = "SHR V1" ∧ (Instr.shl 1 2).asm = "SHL V1, V2" := by decide

/-! ### The Step cycle (95_test_vectors.md 2.1) -/

/-- T1, on the unloaded machine. -/
theorem test_step_reset_unknown : step State.reset = .fault (.unknownOpcode 0x0000) := eq_fault (by decide)

/-- T2. -/
theorem test_step_failing_no_tick :
    failsWith 0x0000 ((State.reset.setDt 5).setSt 5) (.unknownOpcode 0x0000) = true := by decide

/-- T3. -/
theorem test_step_fetch_past_top :
    step ((State.reset.setPc 0xFFF).setMem [(0xFFF, 0x60)]) = .fault (.outOfBounds 0x1000) := eq_fault (by decide)

/-- T4. -/
theorem test_step_pc_wraps :
    (after 0x6012 (State.reset.setPc 0xFFE)).pc = 0x000 ∧
    (after 0x6012 (State.reset.setPc 0xFFE)).getV 0 = 0x12 := by decide

/-- T5. -/
theorem test_step_font_is_unknown : step (State.reset.setPc 0) = .fault (.unknownOpcode 0xF090) := eq_fault (by decide)

/-- T6. -/
theorem test_step_odd_pc : (after 0x6033 (State.reset.setPc 0x201)).pc = 0x203 := by decide

/-- T7. -/
theorem test_step_ticks :
    (run 0x6000 ((State.reset.setDt 1).setSt 1)).tone = true ∧
    (after 0x6000 ((State.reset.setDt 1).setSt 1)).dt = 0 ∧
    (after 0x6000 ((State.reset.setDt 1).setSt 1)).st = 0 := by decide

/-- T15: nothing changes. -/
theorem test_step_jump_to_self : after 0x1200 State.reset = State.reset.withFetchWord 16 0x1200 := by decide

/-! ### Control flow (95_test_vectors.md 2.2) -/

/-- T11: one return address on the stack. -/
def inSubroutine : State :=
  { State.reset.setPc 0x210 with sp := 1, stack := State.reset.stack.set 0 0x206 }

/-- T11. -/
theorem test_ret_pops : (after 0x00EE inSubroutine).pc = 0x206 ∧
    (after 0x00EE inSubroutine).sp = 0 ∧
    (after 0x00EE inSubroutine).stack[0] = 0x206 := by decide

/-- T13. -/
theorem test_ret_empty : failsWith 0x00EE State.reset .stackUnderflow = true := by decide

/-- T14. -/
theorem test_jp : (after 0x1ABC State.reset).pc = 0xABC := by decide

/-- T19. -/
theorem test_call_pushes : (after 0x2300 { State.reset.setPc 0x204 with sp := 15 }).pc = 0x300 ∧
    (after 0x2300 { State.reset.setPc 0x204 with sp := 15 }).sp = 16 ∧
    (after 0x2300 { State.reset.setPc 0x204 with sp := 15 }).stack[15] = 0x206 := by decide

/-- T20. -/
theorem test_call_full : failsWith 0x2300 { State.reset.setPc 0x204 with sp := 16 } .stackOverflow = true := by decide

/-- T23. -/
theorem test_jpV0_wraps : (after 0xBFFF (State.reset.setV 0 0xFF)).pc = 0x0FE := by decide

/-- T25, T26. -/
theorem test_seImm :
    (after 0x3342 (State.reset.setV 3 0x42)).pc = 0x204 ∧
    (after 0x3343 (State.reset.setV 3 0x42)).pc = 0x202 := by decide

/-- T27, T28. -/
theorem test_sneImm :
    (after 0x4342 (State.reset.setV 3 0x42)).pc = 0x202 ∧
    (after 0x4343 (State.reset.setV 3 0x42)).pc = 0x204 := by decide

/-- T29, T30. -/
theorem test_seReg : (after 0x5120 ((State.reset.setV 1 7).setV 2 7)).pc = 0x204 ∧
    (after 0x5120 ((State.reset.setV 1 7).setV 2 8)).pc = 0x202 := by decide

/-- T34, T33. -/
theorem test_sneReg : (after 0x9120 ((State.reset.setV 1 7).setV 2 7)).pc = 0x202 ∧
    (after 0x9120 ((State.reset.setV 1 7).setV 2 8)).pc = 0x204 := by decide

/-- T37. -/
theorem test_skip_wraps : (after 0x3000 (State.reset.setPc 0xFFC)).pc = 0x000 := by decide

/-! ### Registers and arithmetic (95_test_vectors.md 1 and 2.3) -/

/-- T40. -/
theorem test_ldImm : (after 0x6F01 (State.reset.setV 0xF 0)).getV 0xF = 1 := by decide

/-- T41. -/
theorem test_addImm_no_flag :
    (after 0x7201 ((State.reset.setV 2 0xFF).setV 0xF 0x55)).getV 2 = 0 ∧
    (after 0x7201 ((State.reset.setV 2 0xFF).setV 0xF 0x55)).getV 0xF = 0x55 := by decide

/-- T42. -/
theorem test_addImm_flag_register : (after 0x7F01 (State.reset.setV 0xF 0xFF)).getV 0xF = 0 := by decide

/-- T43. -/
theorem test_ldReg : (after 0x8120 ((State.reset.setV 1 1).setV 2 9)).getV 1 = 9 := by decide

/-- T44. -/
theorem test_or :
    (after 0x8121 (((State.reset.setV 1 0xF0).setV 2 0x0F).setV 0xF 0x55)).getV 1 = 0xFF ∧
    (after 0x8121 (((State.reset.setV 1 0xF0).setV 2 0x0F).setV 0xF 0x55)).getV 0xF = 0x55 := by decide

/-- T45. -/
theorem test_and :
    (after 0x8122 (((State.reset.setV 1 0xF0).setV 2 0x3C).setV 0xF 0x55)).getV 1 = 0x30 ∧
    (after 0x8122 (((State.reset.setV 1 0xF0).setV 2 0x3C).setV 0xF 0x55)).getV 0xF = 0x55 := by decide

/-- T46. -/
theorem test_xor :
    (after 0x8123 (((State.reset.setV 1 0xF0).setV 2 0x3C).setV 0xF 0x55)).getV 1 = 0xCC ∧
    (after 0x8123 (((State.reset.setV 1 0xF0).setV 2 0x3C).setV 0xF 0x55)).getV 0xF = 0x55 := by decide

/-- S2a. -/
theorem test_add_carry :
    (after 0x8124 ((State.reset.setV 1 0xFF).setV 2 1)).getV 1 = 0 ∧
    (after 0x8124 ((State.reset.setV 1 0xFF).setV 2 1)).getV 0xF = 1 := by decide

/-- T53. -/
theorem test_add_flag_register : (after 0x8F14 ((State.reset.setV 1 1).setV 0xF 0xFF)).getV 0xF = 1 := by decide

/-- S3a. -/
theorem test_sub_borrow :
    (after 0x8125 (((State.reset.setV 1 1).setV 2 2).setV 0xF 1)).getV 1 = 0xFF ∧
    (after 0x8125 (((State.reset.setV 1 1).setV 2 2).setV 0xF 1)).getV 0xF = 0 := by decide

/-- T57. -/
theorem test_sub_flag_register : (after 0x8F15 ((State.reset.setV 1 3).setV 0xF 5)).getV 0xF = 1 := by decide

/-- T61. -/
theorem test_shr_ignores_y :
    (after 0x8126 ((State.reset.setV 1 4).setV 2 0xAA)).getV 1 = 2 ∧
    (after 0x8126 ((State.reset.setV 1 4).setV 2 0xAA)).getV 2 = 0xAA ∧
    (after 0x8126 ((State.reset.setV 1 4).setV 2 0xAA)).getV 0xF = 0 := by decide

/-- T63. -/
theorem test_shr_flag_register : (after 0x8F06 (State.reset.setV 0xF 3)).getV 0xF = 1 := by decide

/-- T65. -/
theorem test_subn :
    (after 0x8127 ((State.reset.setV 1 1).setV 2 3)).getV 1 = 2 ∧
    (after 0x8127 ((State.reset.setV 1 1).setV 2 3)).getV 0xF = 1 := by decide

/-- T68. -/
theorem test_subn_flag_register : (after 0x8F17 ((State.reset.setV 1 9).setV 0xF 2)).getV 0xF = 1 := by decide

/-- T69. -/
theorem test_shl :
    (after 0x810E (State.reset.setV 1 0x81)).getV 1 = 2 ∧
    (after 0x810E (State.reset.setV 1 0x81)).getV 0xF = 1 := by decide

/-- T72. -/
theorem test_shl_flag_register : (after 0x8F0E (State.reset.setV 0xF 0x81)).getV 0xF = 2 := by decide

/-- T77: whatever the random byte is. -/
theorem test_rnd_mask_zero : (after 0xC300 (State.reset.setV 3 0xFF)).getV 3 = 0 := BitVec.and_zero

/-- T78: the draw itself. -/
theorem test_rnd_mask_ones :
    (after 0xC3FF (State.reset.setV 3 0xFF)).getV 3 = Config.rnd 0 ∧
    (after 0xC3FF (State.reset.setV 3 0xFF)).draws = 1 := ⟨BitVec.and_allOnes, rfl⟩

/-! ### Index register and memory (95_test_vectors.md 1 and 2.4) -/

/-- T79. -/
theorem test_ldI : (after 0xAFFF State.reset).idx = 0xFFF := by decide

/-- T84. -/
theorem test_addI_overflow : (after 0xF21E ((State.reset.setV 2 0xFF).setIdx 0xF01)).idx = 0 ∧
    (after 0xF21E ((State.reset.setV 2 0xFF).setIdx 0xF01)).getV 0xF = 1 := by decide

/-- T86. -/
theorem test_addI_flag_register : (after 0xFF1E ((State.reset.setV 0xF 0x20).setIdx 0x010)).idx = 0x030 ∧
    (after 0xFF1E ((State.reset.setV 0xF 0x20).setIdx 0x010)).getV 0xF = 0 := by decide

/-- T89, T91. -/
theorem test_ldF_last_glyph :
    (after 0xF029 (State.reset.setV 0 0x0F)).idx = 0x04B ∧
    (after 0xF029 (State.reset.setV 0 0xFF)).idx = 0x4FB := by decide

/-- T97: the whole of memory, with the placed word. -/
theorem test_ldB_top : (after 0xF033 ((State.reset.setV 0 0x7B).setIdx 0xFFD)).mem =
    [(0x200, 0xF0), (0x201, 0x33), (0xFFD, 0x01), (0xFFE, 0x02), (0xFFF, 0x03)] := by decide

/-- T98. -/
theorem test_ldB_past_top :
    failsWith 0xF033 ((State.reset.setV 0 0x7B).setIdx 0xFFE) (.outOfBounds 0x1000) = true := by decide

/-- T100. -/
theorem test_ldMemVx_index_wraps : (after 0xF055 ((State.reset.setV 0 0xAB).setIdx 0xFFF)).idx = 0 ∧
    (after 0xF055 ((State.reset.setV 0 0xAB).setIdx 0xFFF)).mem.read 0xFFF = 0xAB := by decide

/-- T101. -/
theorem test_ldMemVx_past_top :
    failsWith 0xF155 (((State.reset.setV 0 0xAB).setV 1 0xCD).setIdx 0xFFF) (.outOfBounds 0x1000) = true := by decide

/-- T105. -/
theorem test_ldVxMem_font : (after 0xFF65 State.reset).v.toList =
    [0xF0, 0x90, 0x90, 0x90, 0xF0, 0x20, 0x60, 0x20, 0x20, 0x70, 0xF0, 0x10, 0xF0, 0x80, 0xF0, 0xF0] ∧
    (after 0xFF65 State.reset).idx = 0x010 := by decide

/-- T108. -/
theorem test_ldVxMem_stops_at_x :
    (after 0xF165 (((State.reset.setV 2 9).setIdx 0x300).setMem [(0x300, 1), (0x301, 2)])).v.toList.take 3 = [1, 2, 9] := by decide

/-! ### Display (95_test_vectors.md 2.5) -/

/-- T109: two opposite corners are lit. -/
def litCorners : State :=
  { State.reset with fb := (State.reset.fb.flip 0 0).flip 63 31 }

/-- T109. -/
theorem test_cls :
    (after 0x00E0 litCorners).fb = State.reset.fb ∧
    (after 0x00E0 litCorners).drawPending = true := by decide

/-- T111: a two-row sprite at `I`, to be drawn at the last column and row. -/
def cornerSprite : State :=
  (((State.reset.setV 0 0x3E).setV 1 0x1F).setIdx 0x214).setMem [(0x214, 0xC3), (0x215, 0x81)]

/-- T111. -/
theorem test_drw_wraps : (after 0xD012 cornerSprite).fb =
    (((((State.reset.fb.flip 4 31).flip 5 0).flip 5 31).flip 62 0).flip 62 31).flip 63 31 := by decide

/-- T113, with two pixels lit instead of eight. -/
def litPair : State :=
  { ((State.reset.setV 0 7).setIdx 0x300).setMem [(0x300, 0x80)] with fb := (State.reset.fb.flip 7 0).flip 6 0 }

/-- T113, with two pixels lit. -/
theorem test_drw_collides : (after 0xD011 litPair).getV 0xF = 1 ∧
    (after 0xD011 litPair).fb = State.reset.fb.flip 6 0 := by decide

/-- T119. -/
theorem test_drw_past_top :
    failsWith 0xD003 ((State.reset.setV 0xF 7).setIdx 0xFFE) (.outOfBounds 0x1000) = true := by decide

/-- T117. -/
theorem test_drw_no_rows : (after 0xD010 ((State.reset.setV 0xF 1).setIdx 0xFFF)).getV 0xF = 0 ∧
    (after 0xD010 ((State.reset.setV 0xF 1).setIdx 0xFFF)).drawPending = true := by decide

/-! ### Keypad and timers (95_test_vectors.md 2.6) -/

/-- T123: `V5` names key 10. -/
def askingKeyTen : State :=
  (State.reset.setV 5 0x0A).setPc 0x240

/-- T123, T125. -/
theorem test_skp :
    (after 0xE59E (askingKeyTen.keypadWrite 10 true)).pc = 0x244 ∧
    (after 0xE59E (askingKeyTen.keypadWrite 5 true)).pc = 0x242 := by decide

/-- T126. -/
theorem test_skp_bad_key :
    failsWith 0xE59E ((State.reset.setV 5 0x10).keypadWrite 0 true) (.outOfBounds 16) = true := by decide

/-- T127, T128. -/
theorem test_sknp :
    (after 0xE5A1 askingKeyTen).pc = 0x244 ∧
    (after 0xE5A1 (askingKeyTen.keypadWrite 10 true)).pc = 0x242 := by decide

/-- T129. -/
theorem test_sknp_bad_key : failsWith 0xE5A1 (State.reset.setV 5 0xFF) (.outOfBounds 255) = true := by decide

/-- T130: both timers run and no key is pressed. -/
def waiting : State :=
  ((State.reset.setV 2 0x77).setDt 3).setSt 2

/-- T130. -/
theorem test_ldVxK_waits : run 0xF20A waiting =
    { state := ((waiting.withFetchWord 16 0xF20A).setDt 2).setSt 1, result := .awaitingKey, tone := true } := by decide

/-- T131. -/
theorem test_ldVxK_lowest : (after 0xF20A ((State.reset.keypadWrite 7 true).keypadWrite 3 true)).getV 2 = 3 ∧
    (run 0xF20A ((State.reset.keypadWrite 7 true).keypadWrite 3 true)).result = .ok := by decide

/-- T135. -/
theorem test_ldVxDt :
    (after 0xF407 (State.reset.setDt 4)).getV 4 = 4 ∧
    (after 0xF407 (State.reset.setDt 4)).dt = 3 := by decide

/-- T137, T139. -/
theorem test_ldDtVx :
    (after 0xF315 (State.reset.setV 3 5)).dt = 4 ∧
    (after 0xF315 ((State.reset.setV 3 0).setDt 9)).dt = 0 := by decide

/-- T141. -/
theorem test_ldStVx :
    (run 0xF318 (State.reset.setV 3 2)).tone = true ∧
    (after 0xF318 (State.reset.setV 3 2)).st = 1 := by decide

/-- T142. -/
theorem test_ldStVx_zero :
    (run 0xF318 ((State.reset.setV 3 0).setSt 9)).tone = false ∧
    (after 0xF318 ((State.reset.setV 3 0).setSt 9)).st = 0 := by decide

/-! ### Host operations (95_test_vectors.md 4) -/

/-- The default font as the argument of Init and Reset (20_memory.md R76). -/
def defaultFont : Vector Byte 80 := ⟨Config.font.toArray, by decide⟩

/-- H1: Init from another record makes the reset record. -/
theorem test_init :
    HostOp.apply defaultFont (after 0x00E0 ((State.reset.setV 3 0).setSt 9)) .init = (State.reset, .done) := by decide

/-- H4: the byte `00` at `0x201` is what memory reads as, so it is not listed. -/
theorem test_load_two_bytes :
    (HostOp.apply defaultFont State.reset (.load [0x12, 0x00])).1 = State.reset.setMem [(0x200, 0x12)] := by decide

/-- H3. -/
theorem test_load_nothing : HostOp.apply defaultFont State.reset (.load []) = (State.reset, .ok) := by decide

/-- H8. -/
theorem test_timer_tick :
    HostOp.apply defaultFont ((State.reset.setDt 3).setSt 1) .timerTick = ((State.reset.setDt 2).setSt 0, .ticked true) := by decide

/-- H11. -/
theorem test_clear_draw_pending : HostOp.apply defaultFont (after 0x00E0 State.reset) .clearDrawPending =
    ({ after 0x00E0 State.reset with drawPending := false }, .done) := by decide

/-- H13. -/
theorem test_keypad_write :
    (HostOp.apply defaultFont State.reset (.keypadWrite 3 true)).1.keypad.toList = [false, false, false, true, false, false, false, false, false, false, false, false, false, false, false, false] := by decide

/-- H12: pixel (4,31) is linear index 1988. -/
theorem test_framebuffer_bits :
    (State.framebufferBits { State.reset with fb := State.reset.fb.flip 4 31 }).getD 1988 false = true := by
  rw [List.getD_eq_getElem _ _ (by simp [State.framebufferBits, Config.fbWidth, Config.fbHeight])]
  simp [State.framebufferBits, Config.fbWidth]
  decide

/-! ### Witnesses: every set of hypotheses of an obligation is met, clause by clause, at the boundary values -/

/-- EncodeOfDecode. -/
theorem witness_known_word : decode 0x8126 = some (.shr 1 2) := by decide

/-- DecodeFollowsOpcodeMap and UnknownWordRaisesBeforeAnyEffect: an unknown word is fetched. -/
theorem witness_unknown_fetched : State.reset.fetch = .ok 0x0000 ∧ decode 0x0000 = none := by decide

/-- FetchReadsBigEndianWord: the last `pc` that can fetch, the one that cannot, and a storage value no run reaches. -/
theorem witness_fetch_boundary :
    (State.reset.setPc 0xFFE).pc.toNat + 1 ≤ 0xFFF ∧ 0xFFF < (State.reset.setPc 0xFFF).pc.toNat + 1 ∧
      (State.reset.setPc 0xFFF).pc.toNat ≤ 0xFFF ∧ 0xFFF < State.pc { State.reset with pc := 0x1000 } := by
  decide

/-- StepRunsTheDecodedInstruction: a known word at the highest address that can be fetched. -/
theorem witness_fetched_instruction :
    ((State.reset.setPc 0xFFE).withFetchWord 16 0x6012).pc.toNat + 1 ≤ 0xFFF ∧
      ((State.reset.setPc 0xFFE).withFetchWord 16 0x6012).fetchInstr = .ok (.ldImm 0 0x12) := by
  decide

/-- A Step that answers a next state, from a record that meets the invariant: StepTicksBothTimersOnce, InvariantKeptByStep. -/
theorem witness_step_next : State.Inv (State.reset.withFetchWord 16 0x6012) ∧
    ∃ t, step (State.reset.withFetchWord 16 0x6012) = .next t := by
  refine ⟨⟨by decide, by decide, by decide, fun k hk => absurd hk (Nat.not_lt_zero _)⟩, exists_next (by decide)⟩

/-- StackErrorsComeFromCallAndReturnOnly, FailedStepKeepsTheRecord: both stack errors are raised. -/
theorem witness_stack_errors :
    step (State.withFetchWord { State.reset with sp := 16 } 16 0x2300) = .fault .stackOverflow ∧
      step (State.reset.withFetchWord 16 0x00EE) = .fault .stackUnderflow :=
  ⟨eq_fault (by decide), eq_fault (by decide)⟩

/-- ErrorsAreExactlyTheListed: each listed error at its first value. -/
theorem witness_listed_errors :
    State.errorOf { State.reset with sp := 16 } (.call 0x300) = some .stackOverflow ∧
    State.errorOf State.reset .ret = some .stackUnderflow ∧
    State.errorOf (State.reset.setIdx 0xFFE) (.drw 0 0 3) = some (.outOfBounds 0x1000) ∧
    State.errorOf (State.reset.setIdx 0xFFE) (.ldB 0) = some (.outOfBounds 0x1000) ∧
    State.errorOf (State.reset.setIdx 0xFFF) (.ldMemVx 1) = some (.outOfBounds 0x1000) ∧
    State.errorOf (State.reset.setIdx 0xFF1) (.ldVxMem 0xF) = some (.outOfBounds 0x1000) ∧
    State.errorOf (State.reset.setV 5 0x10) (.skp 5) = some (.outOfBounds 16) ∧
    State.errorOf (State.reset.setV 5 0xFF) (.sknp 5) = some (.outOfBounds 255) := by
  decide

/-- EveryInstructionHasAMeaning: no error is listed at the last value before each. -/
theorem witness_no_listed_error :
    State.errorOf { State.reset with sp := 15 } (.call 0x300) = none ∧
    State.errorOf { State.reset with sp := 1 } .ret = none ∧
    State.errorOf (State.reset.setIdx 0xFFF) (.drw 0 0 0) = none ∧
    State.errorOf (State.reset.setIdx 0xFFE) (.drw 0 0 2) = none ∧
    State.errorOf (State.reset.setIdx 0xFFD) (.ldB 0) = none ∧
    State.errorOf (State.reset.setIdx 0xFFF) (.ldMemVx 0) = none ∧
    State.errorOf (State.reset.setIdx 0xFF0) (.ldVxMem 0xF) = none ∧
    State.errorOf (State.reset.setV 5 0x0F) (.skp 5) = none ∧ State.errorOf State.reset .cls = none := by
  decide

/-- AwaitingKeyChangesOnlyTimers. -/
theorem witness_awaiting : (run 0xF20A State.reset).result = .awaitingKey := by decide

/-- ToneIsSoundTimerBeforeTick: a Step with the tone and one without. -/
theorem witness_tone : (run 0xF318 (State.reset.setV 3 1)).tone = true ∧ (run 0x6000 State.reset).tone = false := by decide

/-- ProgramCounterClasses: an instruction of each class completes; a skip with its condition met and not met; a wait with no
key and with a key. -/
theorem witness_classes :
    (Instr.pcClass .cls = .sequential ∧ isNext (exec .cls State.reset) = true) ∧
    (Instr.pcClass (.seImm 0 0) = .skip ∧ isNext (exec (.seImm 0 0) State.reset) = true) ∧
    (Instr.pcClass (.jp 0xFFF) = .transfer ∧ isNext (exec (.jp 0xFFF) State.reset) = true) ∧
    (Instr.pcClass (.ldVxK 0) = .wait ∧ isNext (exec (.ldVxK 0) State.reset) = true ∧
      isNext (exec (.ldVxK 0) (State.reset.keypadWrite 15 true)) = true) := by
  decide

theorem witness_skip_condition : State.SkipCondition State.reset (.seImm 0 0) ∧ ¬ State.SkipCondition State.reset (.seImm 0 1) ∧
    State.SkipCondition (State.reset.keypadWrite 15 true) (.sknp 0) ∧
    ¬ State.SkipCondition (State.reset.keypadWrite 0 true) (.sknp 0) := by
  refine ⟨rfl, fun h => absurd (show State.reset.getV 0 = 1 from h) (by decide), ⟨0, rfl, rfl⟩, ?_⟩
  rintro ⟨k, hk, h⟩
  have : k = 0 := Fin.ext hk
  subst this
  exact absurd h (by decide)

theorem witness_no_key : State.reset.NoKey ∧ ¬ (State.reset.keypadWrite 15 true).NoKey :=
  ⟨by unfold State.NoKey; decide, fun h => absurd (h 15) (by decide)⟩

/-- AddWritesCarry, SubtractionsWriteNoBorrow, ShiftsWriteBitOut: a destination that is not the flag, and the one that is. -/
theorem witness_destination : (0xE : Reg) ≠ 0xF ∧ ¬ (0xF : Reg) ≠ 0xF := by decide

/-- FlagRegisterAsDestination: the old `VF` and the old `VY`, here at their largest values. -/
theorem witness_flag_operands :
    255 = (((State.reset.setV 0xF 0xFF).setV 1 0xFF).getV 0xF).toNat ∧
      255 = (((State.reset.setV 0xF 0xFF).setV 1 0xFF).getV 1).toNat := by
  decide

/-- JumpGoesToAddress: a jump to its own address, and to the last address. -/
theorem witness_jump : (0x200 : Addr).toNat = State.reset.pc.toNat ∧ (0xFFF : Addr) = 0xFFF := by decide

/-- CallPushesReturnAddress: the last free entry, and the full stack; the entry pushed and an entry that is not. -/
theorem witness_call : (State.sp { State.reset with sp := 15 }).val < 16 ∧ (State.sp { State.reset with sp := 16 }).val = 16 ∧
    (15 : Fin 16).val = (State.sp { State.reset with sp := 15 }).val ∧
    (14 : Fin 16).val ≠ (State.sp { State.reset with sp := 15 }).val := by
  decide

/-- ReturnPopsIntoPc: one entry in use, all sixteen, an entry of `0xFFF`, none. -/
theorem witness_ret : 0 < (State.sp { State.reset with sp := 1 }).val ∧
    (0 : Fin 16).val + 1 = (State.sp { State.reset with sp := 1 }).val ∧
    (15 : Fin 16).val + 1 = (State.sp { State.reset with sp := 16 }).val ∧
    (State.stack { State.reset with sp := 1, stack := State.reset.stack.set 0 0xFFF })[(0 : Fin 16)] = 0xFFF ∧
    State.reset.sp.val = 0 := by
  decide

/-- DecimalDigitsAreStored, RegistersAreStored: canonical memory and the last legal base; the first base past it. -/
theorem witness_store_in_bounds : (State.reset.setIdx 0xFFD).mem.wf ∧ (State.reset.setIdx 0xFFD).atI 2 ≤ 0xFFF ∧
    (State.reset.setIdx 0xFF0).atI (0xF : Reg).toNat ≤ 0xFFF ∧ (State.reset.setIdx 0xFFF).atI (0 : Reg).toNat ≤ 0xFFF := by
  decide

theorem witness_store_past_top : 0xFFF < (State.reset.setIdx 0xFFE).atI 2 ∧
    0xFFF < (State.reset.setIdx 0xFF1).atI (0xF : Reg).toNat ∧ 0xFFF < (State.reset.setIdx 0xFFF).atI (1 : Reg).toNat := by
  decide

/-- RegistersAreLoaded: registers loaded and not loaded, at the boundary. -/
theorem witness_loaded : (3 : Reg).toNat ≤ (3 : Reg).toNat ∧ (3 : Reg).toNat < (4 : Reg).toNat := by decide

/-- StoreThenLoadRestoresRegisters: the record after the store, with `I` set back, is a third record as asked for. -/
theorem witness_store_then_load : ∃ t u : State, (State.reset.setIdx 0x300).mem.wf ∧
    exec (.ldMemVx 3) (State.reset.setIdx 0x300) = .next t ∧
    (∀ k : Reg, k.toNat ≤ (3 : Reg).toNat →
      u.mem.read ((State.reset.setIdx 0x300).atI k.toNat) = t.mem.read ((State.reset.setIdx 0x300).atI k.toNat)) ∧
    u.idx = (State.reset.setIdx 0x300).idx := by
  obtain ⟨t, ht⟩ := exists_next (r := exec (.ldMemVx 3) (State.reset.setIdx 0x300)) (by decide)
  exact ⟨t, t.setIdx 0x300, by decide, ht, fun _ _ => rfl, rfl⟩

/-- DrawXorsSpriteOntoPicture: no rows at the last address, the last legal sprite, the first past it. -/
theorem witness_draw : (0 : BitVec 4).toNat = 0 ∧ (State.reset.setIdx 0xFFE).atI ((2 : BitVec 4).toNat - 1) ≤ 0xFFF ∧
    (3 : BitVec 4).toNat ≠ 0 ∧ 0xFFF < (State.reset.setIdx 0xFFE).atI ((3 : BitVec 4).toNat - 1) := by
  decide

/-- DrawTwiceRestoresPicture: the record after the first draw is a second record as asked for, and the picture before it was
dark. -/
theorem witness_draw_twice : ∃ t u : State, exec (.drw 0 1 5) State.reset = .next t ∧ u.fb = t.fb ∧ u.idx = State.reset.idx ∧
    u.getV 0 = State.reset.getV 0 ∧ u.getV 1 = State.reset.getV 1 ∧
    (∀ r : Nat, r < (5 : BitVec 4).toNat → u.mem.read (State.reset.atI r) = State.reset.mem.read (State.reset.atI r)) ∧
    ∀ px py : Nat, px < 64 → py < 32 → UnderSprite State.reset.mem (State.reset.atI 0) 5 0 0 px py →
      State.reset.fb.pixel px py = false := by
  obtain ⟨t, ht⟩ := exists_next (r := exec (.drw 0 1 5) State.reset) (by decide)
  refine ⟨t, { State.reset with fb := t.fb }, ht, rfl, rfl, rfl, rfl, fun _ _ => rfl, fun px py _ _ _ => ?_⟩
  simp [State.reset, Framebuffer.pixel]

/-- KeySkipsFollowTheKeypad: the last key, and the first number that names none. -/
theorem witness_key : (15 : Fin 16).val = ((State.reset.setV 5 15).getV 5).toNat ∧
    15 < ((State.reset.setV 5 16).getV 5).toNat := by
  decide

/-- WaitForKeyTakesLowestKey: keys 3 and 7 pressed, none below 3. -/
theorem witness_lowest_key :
    ((State.reset.keypadWrite 7 true).keypadWrite 3 true).keypad[(3 : Fin 16)] = true ∧
      ∀ j : Fin 16, j < 3 → ((State.reset.keypadWrite 7 true).keypadWrite 3 true).keypad[j] = false := by
  decide

/-- InvariantKeptByEveryHostOperation. -/
theorem witness_inv : State.Inv State.reset :=
  ⟨by decide, by decide, by decide, fun _ hk => absurd hk (Nat.not_lt_zero _)⟩

/-- InitPlacesAnyFont: an address past the font, and the default font as the argument. -/
theorem witness_font : (0x50 : Nat) ≤ 0x50 ∧ defaultFont.toList = Config.font := ⟨by decide, rfl⟩

/-- OnlyListedInstructionsWriteEachField, OnlyDestinationRegistersChange: an addition completes and `V3` is none of its
destinations. -/
theorem witness_addition : (∃ t, exec (.addReg 1 2) State.reset = .next t) ∧ ¬ Instr.writesReg (.addReg 1 2) 3 :=
  ⟨exists_next (by decide), fun h => h.elim (fun e => absurd e (by decide)) (fun e => absurd e (by decide))⟩

/-- DrawPendingIsWriteOnly: a draw completes, and a Step from a record whose flag is set. -/
theorem witness_draw_pending : (∃ t, exec (.drw 0 1 5) State.reset = .next t) ∧
    (∃ t, step (State.withFetchWord { State.reset with drawPending := true } 16 0x6012) = .next t) ∧
    State.drawPending (State.withFetchWord { State.reset with drawPending := true } 16 0x6012) = true :=
  ⟨exists_next (by decide), exists_next (by decide), by decide⟩

/-- SoundTimerIsUnread, DrawPendingIsWriteOnly: a Step that raises an error. -/
theorem witness_step_fault : step State.reset = .fault (.unknownOpcode 0) := eq_fault (by decide)

/-- DeadStackEntriesAreUnread: two different records alike but for the dead entry 0. -/
theorem witness_dead_stack :
    State.SameButDeadStack State.reset { State.reset with stack := State.reset.stack.set 0 0x300 } ∧
      State.reset ≠ { State.reset with stack := State.reset.stack.set 0 0x300 } :=
  ⟨⟨rfl, fun _ hk => absurd hk (Nat.not_lt_zero _)⟩, by decide⟩

/-- LiveStackEntriesSurvive: entry 0 is live before and after a return from depth 2. -/
theorem witness_live_stack : ∃ t, step (State.withFetchWord { State.reset with sp := 2 } 16 0x00EE) = .next t ∧
    (0 : Fin 16).val < (State.sp (State.withFetchWord { State.reset with sp := 2 } 16 0x00EE)).val ∧ (0 : Fin 16).val < t.sp.val :=
  ⟨after 0x00EE { State.reset with sp := 2 }, rfl, by decide, by decide⟩

/-- ReturnUndoesCall: the record the call leaves is itself one the return may start from. -/
theorem witness_return_undoes_call : ∃ t u : State, exec (.call 0x300) State.reset = .next t ∧ u.sp = t.sp ∧
    ∀ k : Fin 16, k.val = State.reset.sp.val → u.stack[k] = t.stack[k] := by
  obtain ⟨t, ht⟩ := exists_next (r := exec (.call 0x300) State.reset) (by decide)
  exact ⟨t, t, ht, rfl, fun _ _ => rfl⟩

/-- `FX15` at `0x200`, then `6000`, then `FX07`: the record of DelayTimerCountsSteps. -/
def delayRecord : State :=
  (State.reset.setV 3 5).setMem [(0x200, 0xF3), (0x201, 0x15), (0x202, 0x60), (0x204, 0xF4), (0x205, 0x07)]

/-- DelayTimerCountsSteps: one Step without `FX15` stands between `FX15` and `FX07`. -/
theorem witness_delay : ∃ u t : State, delayRecord.fetchInstr = .ok (.ldDtVx 3) ∧ step delayRecord = .next u ∧
    RunsWithoutSettingDelay 1 u t ∧ t.fetchInstr = .ok (.ldVxDt 4) := by
  refine ⟨(stepReport delayRecord).state, (stepReport (stepReport delayRecord).state).state, by decide, rfl,
    ⟨_, fun x h => ?_, rfl, rfl⟩, by decide⟩
  have : (stepReport delayRecord).state.fetchInstr = .ok (.ldImm 0 0) := by decide
  rw [this] at h
  cases h

/-- P7: `F055` at `0x204` stores `V0` at `0x206`, which the next Step fetches. -/
def selfModifying : State :=
  (((State.reset.setV 0 0x61).setIdx 0x206).setPc 0x204).setMem [(0x204, 0xF0), (0x205, 0x55), (0x207, 0x2A)]

/-- StoresAreSeenByTheNextFetch: the first byte fetched next is the stored one, the second is not stored. -/
theorem witness_coherence : ∃ t : State, selfModifying.mem.wf ∧ selfModifying.fetchInstr = .ok (.ldMemVx 0) ∧
    step selfModifying = .next t ∧ t.pc.toNat + 1 ≤ 0xFFF ∧ selfModifying.atI (0 : Reg).toNat = t.pc.toNat ∧
    selfModifying.atI (0 : Reg).toNat < t.pc.toNat + 1 :=
  ⟨(stepReport selfModifying).state, by decide, by decide, rfl, by decide, by decide, by decide⟩

/-- StoresAreSeenByTheNextFetch, the other clauses: with `I = 0x207` the second byte is the stored one and the first is below
it. -/
theorem witness_coherence_second_byte : ∃ t : State, (selfModifying.setIdx 0x207).mem.wf ∧
    (selfModifying.setIdx 0x207).fetchInstr = .ok (.ldMemVx 0) ∧ step (selfModifying.setIdx 0x207) = .next t ∧
    t.pc.toNat + 1 ≤ 0xFFF ∧ (selfModifying.setIdx 0x207).atI (0 : Reg).toNat = t.pc.toNat + 1 ∧
    t.pc.toNat < (selfModifying.setIdx 0x207).atI 0 :=
  ⟨(stepReport (selfModifying.setIdx 0x207)).state, by decide, by decide, rfl, by decide, by decide, by decide⟩

/-- LoadPlacesTheImage: the longest image that fits, and the shortest that does not. -/
theorem witness_load : State.reset.mem.wf ∧ (List.replicate 3584 (0xAA : Byte)).length ≤ 3584 ∧
    3584 < (List.replicate 3585 (0xAA : Byte)).length := by
  refine ⟨by decide, ?_, ?_⟩ <;> rw [List.length_replicate]
  decide

/-- HostOperationsTouchOnlyTheirField: another key, the last pixel. -/
theorem witness_other_key : (3 : Fin 16) ≠ 4 ∧ (63 : Nat) < 64 ∧ (31 : Nat) < 32 := by decide

/-- CanonicalMemoriesAreEqualWhenBytesAre: two orders of writing give canonical memories with the same bytes. -/
theorem witness_canonical : Memory.wf ((Memory.write [] 0x300 5).write 0x301 6) ∧
    Memory.wf ((Memory.write [] 0x301 6).write 0x300 5) ∧
    ∀ a : Nat, Memory.read ((Memory.write [] 0x300 5).write 0x301 6) a = Memory.read ((Memory.write [] 0x301 6).write 0x300 5) a :=
  ⟨by decide, by decide, fun _ => rfl⟩

end Sys2Proof.Tests
end

/-! Draw-pending (10_state.md R31) is write-only. One fact carries the proof: changing the flag before an instruction
changes nothing of what it does but the flag after it (`exec_withPending`). What the instruction leaves in the flag is the
case in which the flag is "changed" to the value it has. -/

namespace Sys2Proof.Machine

/-! ### Outcomes up to a change of the next state -/

/-- Change the next state of an outcome; an error or a refusal stays. -/
def mapNext (f : State → State) : Result → Result
  | .next t => .next (f t)
  | .fault e => .fault e
  | .refused r => .refused r

@[simp] theorem mapNext_next (f : State → State) (t : State) : mapNext f (.next t) = .next (f t) := rfl
@[simp] theorem mapNext_fault (f : State → State) (e : Fault) : mapNext f (.fault e) = .fault e := rfl

theorem checkTop_mapNext {f : State → State} {top : Nat} {t u : State} (h : u = f t) :
    checkTop top u = mapNext f (checkTop top t) := by
  subst h
  unfold checkTop raise
  split <;> rfl

/-! ### The record with another draw-pending flag -/

/-- The record with the draw-pending flag `b` and every other field as it was. -/
def State.withPending (s : State) (b : Bool) : State := { s with drawPending := b }

theorem State.withPending_self (s : State) : s.withPending s.drawPending = s := rfl

@[simp] theorem State.withPending_drawPending (s : State) (b : Bool) : (s.withPending b).drawPending = b := rfl

theorem State.withPending_fetchInstr (s : State) (b : Bool) : (s.withPending b).fetchInstr = s.fetchInstr := rfl

theorem State.withPending_timerTick (s : State) (b : Bool) :
    (s.withPending b).timerTick = s.timerTick.withPending b := rfl

theorem State.withPending_skipIf (s : State) (b c : Bool) :
    (s.withPending b).skipIf c = (s.skipIf c).withPending b := by
  cases c <;> rfl

theorem State.withPending_skipOnKey (s : State) (b : Bool) (x : Reg) (whenDown : Bool) :
    (s.withPending b).skipOnKey x whenDown = mapNext (·.withPending b) (s.skipOnKey x whenDown) := by
  by_cases h : 15 < (s.getV x).toNat
  · rw [State.skipOnKey, State.skipOnKey, if_pos h]
    exact if_pos h
  · rw [State.skipOnKey, State.skipOnKey, if_neg h, mapNext_next, ← State.withPending_skipIf]
    exact if_neg h

theorem State.withPending_pushAndGo (s : State) (b : Bool) (ret : Word) (target : Nat) :
    (s.withPending b).pushAndGo ret target = mapNext (·.withPending b) (s.pushAndGo ret target) := by
  by_cases h : s.sp.val < 16
  · rw [State.pushAndGo_next h, State.pushAndGo_next (s := s.withPending b) h]
    rfl
  · have h : s.sp.val = 16 := by omega
    rw [State.pushAndGo_full h, State.pushAndGo_full (s := s.withPending b) h]
    rfl

theorem State.withPending_popAndGo (s : State) (b : Bool) :
    (s.withPending b).popAndGo = mapNext (·.withPending b) s.popAndGo := by
  by_cases h : 0 < s.sp.val
  · rw [State.popAndGo_next h, State.popAndGo_next (s := s.withPending b) h]
    rfl
  · have h : s.sp.val = 0 := by omega
    rw [State.popAndGo_empty h, State.popAndGo_empty (s := s.withPending b) h]
    rfl

theorem execLdVxK_withPending (x : Reg) (s : State) (b : Bool) :
    execLdVxK x (s.withPending b) = mapNext (·.withPending b) (execLdVxK x s) := by
  have hkey : (s.withPending b).lowestKey = s.lowestKey := rfl
  unfold execLdVxK
  rw [hkey]
  cases s.lowestKey <;> rfl

/-- A draw sets the flag, whatever it was. -/
theorem execDrw_withPending (x y : Reg) (n : BitVec 4) (s : State) (b : Bool) :
    execDrw x y n (s.withPending b) = mapNext (·.withPending true) (execDrw x y n s) := by
  unfold execDrw
  split
  · rfl
  · exact checkTop_mapNext rfl

/-! ### What an instruction makes of the flag -/

/-- The draw-pending flag after a completing instruction that began with the flag `b` (R31). -/
def pendingAfter (b : Bool) : Instr → Bool
  | .cls | .drw _ _ _ => true
  | _ => b

theorem pendingAfter_true (i : Instr) : pendingAfter true i = true := by
  cases i <;> rfl

theorem pendingAfter_draws {i : Instr} (b : Bool) (h : i = .cls ∨ ∃ x y n, i = .drw x y n) : pendingAfter b i = true := by
  obtain rfl | ⟨x, y, n, rfl⟩ := h <;> rfl

theorem pendingAfter_other {i : Instr} (b : Bool) (hcls : i ≠ .cls) (hdrw : ∀ x y n, i ≠ .drw x y n) :
    pendingAfter b i = b := by
  cases i with
  | cls => exact absurd rfl hcls
  | drw x y n => exact absurd rfl (hdrw x y n)
  | _ => rfl

/-- No instruction depends on the flag: it ends as it would with another flag, and the next states differ in the flag
alone. -/
theorem exec_withPending (i : Instr) (s : State) (b : Bool) :
    exec i (s.withPending b) = mapNext (·.withPending (pendingAfter b i)) (exec i s) := by
  cases i with
  | ret => exact s.withPending_popAndGo b
  | call nnn => exact s.withPending_pushAndGo b _ _
  | seImm x nn | sneImm x nn => exact congrArg Host.Outcome.next (s.withPending_skipIf b _)
  | seReg x y | sneReg x y => exact congrArg Host.Outcome.next (s.withPending_skipIf b _)
  | skp x | sknp x => exact s.withPending_skipOnKey b x _
  | drw x y n => exact execDrw_withPending x y n s b
  | ldVxK x => exact execLdVxK_withPending x s b
  | ldB x | ldMemVx x | ldVxMem x => exact checkTop_mapNext rfl
  | _ => rfl

theorem exec_withPending_next {i : Instr} {s t : State} (h : exec i s = .next t) (b : Bool) :
    exec i (s.withPending b) = .next (t.withPending (pendingAfter b i)) := by
  rw [exec_withPending, h, mapNext_next]

theorem exec_drawPending {i : Instr} {s t : State} (h : exec i s = .next t) :
    t.drawPending = pendingAfter s.drawPending i := by
  have hself := exec_withPending_next h s.drawPending
  rw [State.withPending_self, h] at hself
  injection hself with ht
  rw [ht, State.withPending_drawPending]

/-! ### Step -/

theorem step_keeps_drawPending {s t : State} (h : step s = .next t) (hs : s.drawPending = true) :
    t.drawPending = true := by
  obtain ⟨i, u, -, hexec, rfl⟩ := step_next.1 h
  rw [State.timerTick_drawPending, exec_drawPending hexec, hs, pendingAfter_true]

theorem step_withPending_fault {s : State} {e : Fault} (h : step s = .fault e) (b : Bool) :
    step (s.withPending b) = .fault e := by
  rw [step_fault, State.withPending_fetchInstr]
  obtain hfetch | ⟨i, hfetch, hexec⟩ := step_fault.1 h
  · exact .inl hfetch
  · exact .inr ⟨i, hfetch, by rw [exec_withPending, hexec, mapNext_fault]⟩

theorem step_withPending_next {s t : State} (h : step s = .next t) (b : Bool) :
    ∃ c, step (s.withPending b) = .next (t.withPending c) := by
  obtain ⟨i, u, hfetch, hexec, rfl⟩ := step_next.1 h
  refine ⟨pendingAfter b i, step_next.2 ⟨i, u.withPending (pendingAfter b i), ?_, exec_withPending_next hexec b, ?_⟩⟩
  · rw [State.withPending_fetchInstr, hfetch]
  · rw [State.withPending_timerTick]

end Sys2Proof.Machine

namespace Sys2Proof

open Machine

/-- Settles O51: an instruction commutes with a change of the flag (`exec_withPending`), which gives both what it leaves in
the flag and that no Step depends on it. -/
theorem drawPendingIsWriteOnly : Obligations.DrawPendingIsWriteOnly := by
  unfold Obligations.DrawPendingIsWriteOnly
  refine ⟨fun i s t h => ⟨fun hdraws => ?_, fun hcls hdrw => ?_⟩, fun s t => step_keeps_drawPending, fun s => rfl,
    fun s b => ⟨fun e h => step_withPending_fault h b, fun t h => step_withPending_next h b⟩⟩
  · rw [exec_drawPending h, pendingAfter_draws _ hdraws]
  · rw [exec_drawPending h, pendingAfter_other _ hcls hdrw]

end Sys2Proof

/-! The opcode map (30_encoding.md R94). The family nibble of a word fixes the mask under which the decoder looks at it, so
each word has one candidate row, `Word.shownRow`: a row of the table that the word matches is the candidate, the row of the
instruction the word decodes to is the candidate, and a word decodes to something exactly when its masked word does. -/

namespace Sys2Proof

open Laws.EncodesToOwnRow (masked_A masked_XF masked_XY)

/-! ### The bits of a word the decoder classifies it by -/

/-- The mask of the family `op`: all 16 bits, the family and the low nibble, the family and the low byte, or the family
alone (R94). -/
def familyMask (op : BitVec 4) : Word :=
  if op = 0x0 then 0xFFFF#16
  else if op = 0x5 ∨ op = 0x8 ∨ op = 0x9 then 0xF00F#16
  else if op = 0xE ∨ op = 0xF then 0xF0FF#16
  else 0xF000#16

/-- The word under its family's mask. -/
def Word.shown (w : Word) : Word := w &&& familyMask (Word.op w)

/-- The only row of the opcode map that the word can match. -/
def Word.shownRow (w : Word) : OpRow := ⟨familyMask (Word.op w), Word.shown w⟩

theorem op_familyMask : ∀ op : BitVec 4, Word.op (familyMask op) = BitVec.allOnes 4 := by decide

@[simp] theorem Word.op_shown (w : Word) : Word.op (Word.shown w) = Word.op w := by
  rw [Word.shown, Word.op_and, op_familyMask, BitVec.and_allOnes]

theorem Word.n_shown {w : Word} (h : Word.n (familyMask (Word.op w)) = BitVec.allOnes 4) :
    Word.n (Word.shown w) = Word.n w := by
  rw [Word.shown, Word.n_and, h, BitVec.and_allOnes]

theorem Word.nn_shown {w : Word} (h : Word.nn (familyMask (Word.op w)) = BitVec.allOnes 8) :
    Word.nn (Word.shown w) = Word.nn w := by
  rw [Word.shown, Word.nn_and, h, BitVec.and_allOnes]

/-! ### A word from its fields, and its candidate row for each shape of mask -/

theorem Word.eq_op_nnn (w : Word) : (Word.op w ++ Word.nnn w : BitVec 16) = w := by
  apply BitVec.eq_of_toNat_eq
  rw [toNat_append_add, Word.toNat_op, Word.toNat_nnn]
  omega

theorem Word.eq_op_x_nn (w : Word) : (Word.op w ++ Word.x w ++ Word.nn w : BitVec 16) = w := by
  apply BitVec.eq_of_toNat_eq
  rw [toNat_append_add, toNat_append_add, Word.toNat_op, Word.toNat_x, Word.toNat_nn]
  omega

theorem Word.eq_op_x_y_n (w : Word) : (Word.op w ++ Word.x w ++ Word.y w ++ Word.n w : BitVec 16) = w := by
  apply BitVec.eq_of_toNat_eq
  rw [toNat_append_add, toNat_append_add, toNat_append_add, Word.toNat_op, Word.toNat_x, Word.toNat_y, Word.toNat_n]
  omega

theorem Word.shownRow_op {w : Word} {op : BitVec 4} (h : Word.op w = op) (hm : familyMask op = 0xF000#16) :
    Word.shownRow w = ⟨0xF000#16, op ++ 0#12⟩ := by
  have hw : w &&& 0xF000#16 = Word.op w ++ 0#12 := by
    rw [← masked_A (Word.op w) (Word.nnn w), Word.eq_op_nnn]
  rw [Word.shownRow, Word.shown, h, hm, hw, h]

theorem Word.shownRow_op_n {w : Word} {op : BitVec 4} (h : Word.op w = op) (hm : familyMask op = 0xF00F#16) :
    Word.shownRow w = ⟨0xF00F#16, op ++ 0#4 ++ 0#4 ++ Word.n w⟩ := by
  have hw : w &&& 0xF00F#16 = Word.op w ++ 0#4 ++ 0#4 ++ Word.n w := by
    rw [← masked_XY (Word.op w) (Word.x w) (Word.y w) (Word.n w), Word.eq_op_x_y_n]
  rw [Word.shownRow, Word.shown, h, hm, hw, h]

theorem Word.shownRow_op_nn {w : Word} {op : BitVec 4} (h : Word.op w = op) (hm : familyMask op = 0xF0FF#16) :
    Word.shownRow w = ⟨0xF0FF#16, op ++ 0#4 ++ Word.nn w⟩ := by
  have hw : w &&& 0xF0FF#16 = Word.op w ++ 0#4 ++ Word.nn w := by
    rw [← masked_XF (Word.op w) (Word.x w) (Word.nn w), Word.eq_op_x_nn]
  rw [Word.shownRow, Word.shown, h, hm, hw, h]

/-! ### The table's rows -/

/-- Every row has the mask of its family, and its match word is a word the decoder knows. -/
theorem opcodeRows_familyMask :
    ∀ r ∈ opcodeRows, r.mask = familyMask (Word.op r.bits) ∧ (decode r.bits).isSome = true := by
  decide

theorem eq_shownRow_of_matches {w : Word} {r : OpRow} (hr : r ∈ opcodeRows) (h : w &&& r.mask = r.bits) :
    r = Word.shownRow w := by
  obtain ⟨hmask, -⟩ := opcodeRows_familyMask r hr
  have hop : Word.op w = Word.op r.bits := by
    rw [← h, Word.op_and, hmask, op_familyMask, BitVec.and_allOnes]
  obtain ⟨mask, bits⟩ := r
  rw [Word.shownRow, Word.shown, hop, ← hmask, h]

/-! ### The row of the decoded instruction -/

theorem decodeFamily0_row {w : Word} {i : Instr} (h : decodeFamily0 w = some i) : i.row = ⟨0xFFFF#16, w⟩ := by
  unfold decodeFamily0 at h
  repeat
    split at h
    · next hw => cases h; rw [hw]; rfl
  cases h

theorem decodeFamily5_row {w : Word} {i : Instr} (h : decodeFamily5 w = some i) :
    i.row = ⟨0xF00F#16, (0x5 : BitVec 4) ++ 0#4 ++ 0#4 ++ Word.n w⟩ := by
  unfold decodeFamily5 at h
  split at h
  · next hn => cases h; rw [hn]; rfl
  cases h

theorem decodeFamily8_row {w : Word} {i : Instr} (h : decodeFamily8 w = some i) :
    i.row = ⟨0xF00F#16, (0x8 : BitVec 4) ++ 0#4 ++ 0#4 ++ Word.n w⟩ := by
  unfold decodeFamily8 at h
  repeat
    split at h
    · next hn => cases h; rw [hn]; rfl
  cases h

theorem decodeFamily9_row {w : Word} {i : Instr} (h : decodeFamily9 w = some i) :
    i.row = ⟨0xF00F#16, (0x9 : BitVec 4) ++ 0#4 ++ 0#4 ++ Word.n w⟩ := by
  unfold decodeFamily9 at h
  split at h
  · next hn => cases h; rw [hn]; rfl
  cases h

theorem decodeFamilyE_row {w : Word} {i : Instr} (h : decodeFamilyE w = some i) :
    i.row = ⟨0xF0FF#16, (0xE : BitVec 4) ++ 0#4 ++ Word.nn w⟩ := by
  unfold decodeFamilyE at h
  repeat
    split at h
    · next hnn => cases h; rw [hnn]; rfl
  cases h

theorem decodeFamilyF_row {w : Word} {i : Instr} (h : decodeFamilyF w = some i) :
    i.row = ⟨0xF0FF#16, (0xF : BitVec 4) ++ 0#4 ++ Word.nn w⟩ := by
  unfold decodeFamilyF at h
  repeat
    split at h
    · next hnn => cases h; rw [hnn]; rfl
  cases h

theorem row_eq_shownRow_of_decode {w : Word} {i : Instr} (hi : decode w = some i) : i.row = Word.shownRow w := by
  rcases nibble_cases (Word.op w) with h | h | h | h | h | h | h | h | h | h | h | h | h | h | h | h
  · rw [decodeFamily0_row (decode_op0 w h ▸ hi), Word.shownRow, Word.shown, h]
    exact congrArg (OpRow.mk 0xFFFF#16) BitVec.and_allOnes.symm
  · cases (decode_op1 w h).symm.trans hi; exact (Word.shownRow_op h rfl).symm
  · cases (decode_op2 w h).symm.trans hi; exact (Word.shownRow_op h rfl).symm
  · cases (decode_op3 w h).symm.trans hi; exact (Word.shownRow_op h rfl).symm
  · cases (decode_op4 w h).symm.trans hi; exact (Word.shownRow_op h rfl).symm
  · rw [decodeFamily5_row (decode_op5 w h ▸ hi), Word.shownRow_op_n h rfl]
  · cases (decode_op6 w h).symm.trans hi; exact (Word.shownRow_op h rfl).symm
  · cases (decode_op7 w h).symm.trans hi; exact (Word.shownRow_op h rfl).symm
  · rw [decodeFamily8_row (decode_op8 w h ▸ hi), Word.shownRow_op_n h rfl]
  · rw [decodeFamily9_row (decode_op9 w h ▸ hi), Word.shownRow_op_n h rfl]
  · cases (decode_opA w h).symm.trans hi; exact (Word.shownRow_op h rfl).symm
  · cases (decode_opB w h).symm.trans hi; exact (Word.shownRow_op h rfl).symm
  · cases (decode_opC w h).symm.trans hi; exact (Word.shownRow_op h rfl).symm
  · cases (decode_opD w h).symm.trans hi; exact (Word.shownRow_op h rfl).symm
  · rw [decodeFamilyE_row (decode_opE w h ▸ hi), Word.shownRow_op_nn h rfl]
  · rw [decodeFamilyF_row (decode_opF w h ▸ hi), Word.shownRow_op_nn h rfl]

/-! ### Whether a word decodes is visible under its family's mask -/

theorem decodeFamily5_isSome_congr {v w : Word} (h : Word.n v = Word.n w) :
    (decodeFamily5 v).isSome = (decodeFamily5 w).isSome := by
  simp only [decodeFamily5, apply_ite Option.isSome, Option.isSome_some, h]

theorem decodeFamily8_isSome_congr {v w : Word} (h : Word.n v = Word.n w) :
    (decodeFamily8 v).isSome = (decodeFamily8 w).isSome := by
  simp only [decodeFamily8, apply_ite Option.isSome, Option.isSome_some, h]

theorem decodeFamily9_isSome_congr {v w : Word} (h : Word.n v = Word.n w) :
    (decodeFamily9 v).isSome = (decodeFamily9 w).isSome := by
  simp only [decodeFamily9, apply_ite Option.isSome, Option.isSome_some, h]

theorem decodeFamilyE_isSome_congr {v w : Word} (h : Word.nn v = Word.nn w) :
    (decodeFamilyE v).isSome = (decodeFamilyE w).isSome := by
  simp only [decodeFamilyE, apply_ite Option.isSome, Option.isSome_some, h]

theorem decodeFamilyF_isSome_congr {v w : Word} (h : Word.nn v = Word.nn w) :
    (decodeFamilyF v).isSome = (decodeFamilyF w).isSome := by
  simp only [decodeFamilyF, apply_ite Option.isSome, Option.isSome_some, h]

theorem decode_shown_isSome (w : Word) : (decode (Word.shown w)).isSome = (decode w).isSome := by
  have hop := Word.op_shown w
  rcases nibble_cases (Word.op w) with h | h | h | h | h | h | h | h | h | h | h | h | h | h | h | h
  all_goals rw [h] at hop
  · rw [Word.shown, h]
    exact congrArg (fun v => (decode v).isSome) BitVec.and_allOnes
  · rw [decode_op1 _ h, decode_op1 _ hop]; rfl
  · rw [decode_op2 _ h, decode_op2 _ hop]; rfl
  · rw [decode_op3 _ h, decode_op3 _ hop]; rfl
  · rw [decode_op4 _ h, decode_op4 _ hop]; rfl
  · rw [decode_op5 _ h, decode_op5 _ hop, decodeFamily5_isSome_congr (Word.n_shown (by rw [h]; rfl))]
  · rw [decode_op6 _ h, decode_op6 _ hop]; rfl
  · rw [decode_op7 _ h, decode_op7 _ hop]; rfl
  · rw [decode_op8 _ h, decode_op8 _ hop, decodeFamily8_isSome_congr (Word.n_shown (by rw [h]; rfl))]
  · rw [decode_op9 _ h, decode_op9 _ hop, decodeFamily9_isSome_congr (Word.n_shown (by rw [h]; rfl))]
  · rw [decode_opA _ h, decode_opA _ hop]; rfl
  · rw [decode_opB _ h, decode_opB _ hop]; rfl
  · rw [decode_opC _ h, decode_opC _ hop]; rfl
  · rw [decode_opD _ h, decode_opD _ hop]; rfl
  · rw [decode_opE _ h, decode_opE _ hop, decodeFamilyE_isSome_congr (Word.nn_shown (by rw [h]; rfl))]
  · rw [decode_opF _ h, decode_opF _ hop, decodeFamilyF_isSome_congr (Word.nn_shown (by rw [h]; rfl))]

theorem decode_isSome_of_matches {w : Word} {r : OpRow} (hr : r ∈ opcodeRows) (h : w &&& r.mask = r.bits) :
    (decode w).isSome = true := by
  obtain ⟨-, hknown⟩ := opcodeRows_familyMask r hr
  have hbits : r.bits = Word.shown w := congrArg OpRow.bits (eq_shownRow_of_matches hr h)
  rw [← decode_shown_isSome, ← hbits, hknown]

/-! ### An unknown word in a Step -/

theorem Machine.State.fetchInstr_of_unknown {s : Machine.State} {w : Word} (hs : s.fetch = .ok w) (hw : decode w = none) :
    s.fetchInstr = .error (.unknownOpcode w) := by
  simp only [Machine.State.fetchInstr, hs, hw]

/-- Settles O4: a word has one candidate row, and both the table and the decoder go by it. -/
theorem decodeFollowsOpcodeMap : Obligations.DecodeFollowsOpcodeMap := by
  unfold Obligations.DecodeFollowsOpcodeMap
  refine fun w => ⟨fun i hi => ?_, fun hw => ⟨fun r hr h => ?_, fun s hs => ?_⟩⟩
  · have hrow := row_eq_shownRow_of_decode hi
    refine ⟨i.row_mem, ?_, fun r hr h => (eq_shownRow_of_matches hr h).trans hrow.symm⟩
    rw [hrow]
    rfl
  · have hsome := decode_isSome_of_matches hr h
    rw [hw] at hsome
    cases hsome
  · exact Machine.step_fault.2 (.inl (Machine.State.fetchInstr_of_unknown hs hw))

end Sys2Proof

/-! The Step cycle (40_step_cycle.md): fetch (R121), and what `pc` is after each program-counter class (R123). For the
classes, one lemma says where each of the shared ways to move `pc` leaves it; an instruction is then one of these ways. -/

namespace Sys2Proof.Machine

/-! ### Fetch (R121) -/

theorem State.fetch_error_iff {s : State} {e : Fault} :
    s.fetch = .error e ↔ 0xFFF < s.pc.toNat + 1 ∧ e = .outOfBounds (s.pc.toNat + 1) := by
  by_cases h : 0xFFF < s.pc.toNat + 1
  · rw [State.fetch_error h, Except.error.injEq, eq_comm, and_iff_right h]
  · rw [State.fetch_ok (Nat.le_of_not_lt h)]
    exact iff_of_false nofun fun hpast => h hpast.1

theorem step_of_pc_past_top {s : State} (h : 0xFFF < s.pc.toNat + 1) :
    step s = .fault (.outOfBounds (s.pc.toNat + 1)) :=
  step_fault.2 (.inl (State.fetchInstr_error.2 (.inl ⟨h, rfl⟩)))

/-- For a 12-bit `pc` the last address is the only one that cannot fetch. -/
theorem State.fetch_error_iff_of_pc_le {s : State} (hpc : s.pc.toNat ≤ 0xFFF) (e : Fault) :
    s.fetch = .error e ↔ s.pc.toNat = 0xFFF ∧ e = .outOfBounds 0x1000 := by
  have htop : 0xFFF < s.pc.toNat + 1 ↔ s.pc.toNat = 0xFFF := by omega
  rw [State.fetch_error_iff, htop]
  exact and_congr_right fun h => by rw [h]

/-! ### Class sequential -/

theorem pcSequential_advance {s u : State} (hpc : u.pc = s.pc) : PcSequential s u.advance := by
  rw [PcSequential, State.advance_pc, hpc, toNat_ofNat_mod_4096]

theorem pcSequential_of_next {s t u : State} (h : (.next u.advance : Result) = .next t) (hpc : u.pc = s.pc) :
    PcSequential s t := by
  cases h
  exact pcSequential_advance hpc

theorem pcSequential_of_checkTop {s t u : State} {top : Nat} (h : checkTop top u.advance = .next t)
    (hpc : u.pc = s.pc) : PcSequential s t := by
  obtain ⟨-, rfl⟩ := checkTop_next.1 h
  exact pcSequential_advance hpc

theorem execDrw_pcSequential {x y : Reg} {n : BitVec 4} {s t : State} (h : execDrw x y n s = .next t) :
    PcSequential s t := by
  unfold execDrw at h
  split at h
  · exact pcSequential_of_next h rfl
  · exact pcSequential_of_checkTop h rfl

/-! ### Class skip -/

/-- `pc` is four further on where `p` holds and two further on where it does not. -/
def PcSkip (p : Prop) (s t : State) : Prop :=
  (p → t.pc.toNat = (s.pc.toNat + 4) % 4096) ∧ (¬ p → t.pc.toNat = (s.pc.toNat + 2) % 4096)

theorem pcSkip_skipIf {p : Prop} {c : Bool} (s : State) (hc : c = true ↔ p) : PcSkip p s (s.skipIf c) := by
  unfold PcSkip
  rw [State.skipIf_pc, toNat_ofNat_mod_4096, ← hc]
  exact ⟨fun h => by rw [if_pos h], fun h => by rw [if_neg h]⟩

theorem pcSkip_of_next {p : Prop} {c : Bool} {s t : State} (h : (.next (s.skipIf c) : Result) = .next t)
    (hc : c = true ↔ p) : PcSkip p s t := by
  cases h
  exact pcSkip_skipIf s hc

theorem State.skipOnKey_next {s t : State} {x : Reg} {whenDown : Bool} :
    s.skipOnKey x whenDown = .next t ↔
      (s.getV x).toNat < 16 ∧ t = s.skipIf (s.keyDown (s.getV x).toNat == whenDown) := by
  unfold State.skipOnKey raise
  split
  · exact iff_of_false nofun fun ⟨hkey, _⟩ => by omega
  · next h =>
    have h : (s.getV x).toNat < 16 := by omega
    simp [h, eq_comm]

theorem State.keyDown_beq_iff (s : State) {n : Nat} (hn : n < 16) (down : Bool) :
    (s.keyDown n == down) = true ↔ ∃ k : Fin 16, k.val = n ∧ s.keypad[k] = down := by
  rw [beq_iff_eq]
  constructor
  · exact fun h => ⟨⟨n, hn⟩, rfl, by rw [← State.keyDown_eq, h]⟩
  · rintro ⟨k, rfl, h⟩
    rw [State.keyDown_eq, h]

theorem pcSkip_of_skipOnKey {s t : State} {x : Reg} {whenDown : Bool} (h : s.skipOnKey x whenDown = .next t) :
    PcSkip (∃ k : Fin 16, k.val = (s.getV x).toNat ∧ s.keypad[k] = whenDown) s t := by
  obtain ⟨hkey, rfl⟩ := State.skipOnKey_next.1 h
  exact pcSkip_skipIf s (s.keyDown_beq_iff hkey whenDown)

/-! ### Class transfer -/

theorem pc_of_next_setPc {s t : State} {target : Nat} (h : (.next (s.setPc target) : Result) = .next t) :
    t.pc.toNat = target % 4096 := by
  cases h
  exact toNat_ofNat_mod_4096 target

theorem State.pc_of_pushAndGo {s t : State} {ret : Word} {target : Nat} (h : s.pushAndGo ret target = .next t) :
    t.pc.toNat = target % 4096 := by
  by_cases hsp : s.sp.val < 16
  · rw [State.pushAndGo_next hsp] at h
    exact pc_of_next_setPc h
  · rw [State.pushAndGo_full (by omega)] at h
    cases h

theorem State.pc_of_popAndGo {s t : State} (h : s.popAndGo = .next t) :
    t.pc.toNat = (s.stack.toList.getD (s.sp.val - 1) 0).toNat % 4096 := by
  by_cases hsp : 0 < s.sp.val
  · have htop : s.sp.val - 1 < s.stack.toList.length := by
      rw [Vector.length_toList]
      omega
    rw [State.popAndGo_next hsp] at h
    rw [pc_of_next_setPc h, List.getD_eq_getElem _ _ htop, Vector.getElem_toList]
  · rw [State.popAndGo_empty (by omega)] at h
    cases h

/-! ### Class wait -/

theorem execLdVxK_pc {x : Reg} {s t : State} (h : execLdVxK x s = .next t) :
    (s.NoKey → t.pc = s.pc) ∧ (¬ s.NoKey → PcSequential s t) := by
  rw [State.NoKey, ← State.lowestKey_eq_none]
  unfold execLdVxK at h
  cases hkey : s.lowestKey with
  | none =>
    rw [hkey] at h
    cases h
    exact ⟨fun _ => rfl, fun hne => absurd rfl hne⟩
  | some k =>
    rw [hkey] at h
    exact ⟨nofun, fun _ => pcSequential_of_next h rfl⟩

end Sys2Proof.Machine

namespace Sys2Proof

open Machine

/-- Settles O16: every instruction moves `pc` by one of the shared ways above, and its class names which. -/
theorem programCounterClasses : Obligations.ProgramCounterClasses := by
  unfold Obligations.ProgramCounterClasses
  intro i s t h
  cases i with
  | seImm x nn => exact pcSkip_of_next h beq_iff_eq
  | sneImm x nn => exact pcSkip_of_next h bne_iff_ne
  | seReg x y => exact pcSkip_of_next h beq_iff_eq
  | sneReg x y => exact pcSkip_of_next h bne_iff_ne
  | skp x | sknp x => exact pcSkip_of_skipOnKey h
  | jp nnn | jpV0 nnn => exact pc_of_next_setPc h
  | call nnn => exact State.pc_of_pushAndGo h
  | ret => exact State.pc_of_popAndGo h
  | ldVxK x => exact execLdVxK_pc h
  | drw x y n => exact execDrw_pcSequential h
  | ldB x | ldMemVx x | ldVxMem x => exact pcSequential_of_checkTop h rfl
  | _ => exact pcSequential_of_next h rfl

/-- Settles O6: the word's value is that of its two bytes, and a fetch fails exactly when `pc + 1` is past the top. -/
theorem fetchReadsBigEndianWord : Obligations.FetchReadsBigEndianWord := by
  unfold Obligations.FetchReadsBigEndianWord
  exact fun s => ⟨fun h => ⟨_, State.fetch_ok h, toNat_wordOfBytes _ _⟩,
    fun h => ⟨State.fetch_error h, step_of_pc_past_top h⟩, State.fetch_error_iff_of_pc_le⟩

end Sys2Proof

/-! Control transfer (41_flow.md): `1NNN`, `00EE` and the four register-compare skips. The encodings of each format are
said once; what an instruction leaves is then one `setPc`, one pop or one `skipIf`, each with its own frame. -/

namespace Sys2Proof.Machine

/-! ### A word and its instruction, one lemma per format (30_encoding.md R91) -/

theorem encodedAs_of_decode {i : Instr} {n : Nat} (hn : (encode i).toNat = n) (hd : decode (encode i) = some i) :
    EncodedAs i n := by
  subst hn
  rw [EncodedAs, BitVec.ofNat_toNat, BitVec.setWidth_eq]
  exact ⟨rfl, hd⟩

theorem encodedAs_A {i : Instr} {op : BitVec 4} {nnn : Addr} (hw : encode i = op ++ nnn)
    (hd : decode (op ++ nnn : BitVec 16) = some i) : EncodedAs i (0x1000 * op.toNat + nnn.toNat) := by
  refine encodedAs_of_decode ?_ (hw ▸ hd)
  rw [hw, toNat_append_add]
  omega

theorem encodedAs_XI {i : Instr} {op : BitVec 4} {x : Reg} {nn : Byte} (hw : encode i = op ++ x ++ nn)
    (hd : decode (op ++ x ++ nn : BitVec 16) = some i) :
    EncodedAs i (0x1000 * op.toNat + 0x100 * x.toNat + nn.toNat) := by
  refine encodedAs_of_decode ?_ (hw ▸ hd)
  rw [hw, toNat_append_add, toNat_append_add]
  omega

theorem encodedAs_XY {i : Instr} {op n : BitVec 4} {x y : Reg} (hw : encode i = op ++ x ++ y ++ n)
    (hd : decode (op ++ x ++ y ++ n : BitVec 16) = some i) :
    EncodedAs i (0x1000 * op.toNat + n.toNat + 0x100 * x.toNat + 0x10 * y.toNat) := by
  refine encodedAs_of_decode ?_ (hw ▸ hd)
  rw [hw, toNat_append_add, toNat_append_add, toNat_append_add]
  omega

theorem encodedAs_jp (nnn : Addr) : EncodedAs (.jp nnn) (0x1000 + nnn.toNat) :=
  encodedAs_A (op := 0x1) rfl (by rw [decode_op1 _ (Word.op_A _ _), Word.nnn_A])

theorem encodedAs_seImm (x : Reg) (nn : Byte) : EncodedAs (.seImm x nn) (0x3000 + 0x100 * x.toNat + nn.toNat) :=
  encodedAs_XI (op := 0x3) rfl (by rw [decode_op3 _ (Word.op_XI _ _ _), Word.x_XI, Word.nn_XI])

theorem encodedAs_sneImm (x : Reg) (nn : Byte) : EncodedAs (.sneImm x nn) (0x4000 + 0x100 * x.toNat + nn.toNat) :=
  encodedAs_XI (op := 0x4) rfl (by rw [decode_op4 _ (Word.op_XI _ _ _), Word.x_XI, Word.nn_XI])

theorem encodedAs_seReg (x y : Reg) : EncodedAs (.seReg x y) (0x5000 + 0x100 * x.toNat + 0x10 * y.toNat) :=
  encodedAs_XY (op := 0x5) (n := 0x0) rfl (by
    rw [decode_op5 _ (Word.op_XY _ _ _ _), decodeFamily5, if_pos (Word.n_XY _ _ _ _), Word.x_XY, Word.y_XY])

theorem encodedAs_sneReg (x y : Reg) : EncodedAs (.sneReg x y) (0x9000 + 0x100 * x.toNat + 0x10 * y.toNat) :=
  encodedAs_XY (op := 0x9) (n := 0x0) rfl (by
    rw [decode_op9 _ (Word.op_XY _ _ _ _), decodeFamily9, if_pos (Word.n_XY _ _ _ _), Word.x_XY, Word.y_XY])

/-! ### Only `pc` changes -/

theorem onlyRegs_setPc (s : State) (target : Nat) : Frame.OnlyRegs [] s (s.setPc target) :=
  ⟨fun _ _ => rfl, fun _ => rfl, rfl, ⟨rfl, rfl⟩, ⟨rfl, rfl⟩, ⟨rfl, rfl⟩, rfl, rfl⟩

theorem onlyRegs_skipIf (s : State) (c : Bool) : Frame.OnlyRegs [] s (s.skipIf c) := by
  cases c <;> exact onlyRegs_setPc s _

/-- A jump to its own address leaves the record as it was. -/
theorem State.setPc_self {s : State} {target : Nat} (hlt : target < 4096) (h : target = s.pc.toNat) :
    s.setPc target = s := by
  have hpc : BitVec.ofNat 16 (target % 4096) = s.pc := by
    rw [Nat.mod_eq_of_lt hlt, h, BitVec.ofNat_toNat, BitVec.setWidth_eq]
  exact congrArg (fun pc => { s with pc := pc }) hpc

/-- At the last address no word can be fetched (R121). -/
theorem step_setPc_top (s : State) : step (s.setPc 0xFFF) = .fault (.outOfBounds 0x1000) := by
  have hpc : (s.setPc 0xFFF).pc.toNat = 0xFFF := rfl
  rw [step_of_pc_past_top (by rw [hpc]; decide), hpc]

/-! ### A pop, with the top entry named -/

theorem State.popAndGo_top {s : State} {k : Fin 16} (hk : k.val + 1 = s.sp.val) :
    s.popAndGo = .next (State.setPc { s with sp := k.castSucc } s.stack[k].toNat) := by
  obtain ⟨mem, v, idx, pc, stack, sp, dt, st, fb, keypad, drawPending, draws⟩ := s
  obtain rfl : sp = k.succ := Fin.ext hk.symm
  exact State.popAndGo_next (Nat.succ_pos _)

/-! ### Skips -/

theorem skipsWhen_of_exec {i : Instr} {s : State} {c : Bool} {p : Prop} (h : exec i s = .next (s.skipIf c))
    (hc : c = true ↔ p) : SkipsWhen i s p :=
  have ⟨hskip, hnext⟩ := pcSkip_skipIf s hc
  ⟨s.skipIf c, h, hskip, hnext, onlyRegs_skipIf s c⟩

end Sys2Proof.Machine

namespace Sys2Proof

open Machine

/-- Settles O25: a jump is one `setPc`, and a 12-bit target is stored as it is. -/
theorem jumpGoesToAddress : Obligations.JumpGoesToAddress := by
  unfold Obligations.JumpGoesToAddress
  refine fun nnn s => ⟨encodedAs_jp nnn, s.setPc nnn.toNat, rfl, ?_, onlyRegs_setPc s _,
    State.setPc_self nnn.isLt, ?_⟩
  · rw [State.setPc_pc, toNat_ofNat_mod_4096, Nat.mod_eq_of_lt nnn.isLt]
  · rintro rfl
    exact step_setPc_top s

/-- Settles O28: the top entry is the one just below `sp`; the pop sends it to `pc`. -/
theorem returnPopsIntoPc : Obligations.ReturnPopsIntoPc := by
  unfold Obligations.ReturnPopsIntoPc
  refine fun s => ⟨⟨rfl, rfl⟩, fun hsp => ?_, State.popAndGo_empty⟩
  obtain ⟨k, hk⟩ : ∃ k : Fin 16, k.val + 1 = s.sp.val := ⟨⟨s.sp.val - 1, by omega⟩, Nat.sub_add_cancel hsp⟩
  refine ⟨_, State.popAndGo_top hk, hk, rfl, fun j hj => ?_,
    fun _ _ => rfl, fun _ => rfl, rfl, ⟨rfl, rfl⟩, ⟨rfl, rfl⟩, rfl, rfl⟩
  obtain rfl : j = k := Fin.ext (by omega)
  refine ⟨toNat_ofNat_mod_4096 _, fun hentry => ?_⟩
  rw [hentry]
  exact step_setPc_top _

/-- Settles O29: each of the four is one `skipIf` on the decided condition. -/
theorem compareSkips : Obligations.CompareSkips := by
  unfold Obligations.CompareSkips
  exact ⟨fun x nn s => ⟨⟨encodedAs_seImm x nn, skipsWhen_of_exec rfl beq_iff_eq⟩,
      ⟨encodedAs_sneImm x nn, skipsWhen_of_exec rfl bne_iff_ne⟩⟩,
    fun x y s => ⟨⟨encodedAs_seReg x y, skipsWhen_of_exec rfl beq_iff_eq⟩,
      ⟨encodedAs_sneReg x y, skipsWhen_of_exec rfl bne_iff_ne⟩⟩⟩

end Sys2Proof

/-! Loads, logic, sums and differences (42_alu.md): `6XNN`, `7XNN`, `8XY0` to `8XY5` and `8XY7`. Each is one `setV` and an
`advance`, or one `resultThenFlag`; what these two shapes leave, frame included, is said once. -/

namespace Sys2Proof.Machine

/-! ### The words of families `0x6`, `0x7` and `0x8` -/

theorem encodedAs_ldImm (x : Reg) (nn : Byte) : EncodedAs (.ldImm x nn) (0x6000 + 0x100 * x.toNat + nn.toNat) :=
  encodedAs_XI (op := 0x6) rfl (by rw [decode_op6 _ (Word.op_XI _ _ _), Word.x_XI, Word.nn_XI])

theorem encodedAs_addImm (x : Reg) (nn : Byte) : EncodedAs (.addImm x nn) (0x7000 + 0x100 * x.toNat + nn.toNat) :=
  encodedAs_XI (op := 0x7) rfl (by rw [decode_op7 _ (Word.op_XI _ _ _), Word.x_XI, Word.nn_XI])

theorem encodedAs_op8 {i : Instr} (n : BitVec 4) {x y : Reg} (hw : encode i = 0x8#4 ++ x ++ y ++ n)
    (hd : decodeFamily8 (0x8#4 ++ x ++ y ++ n : BitVec 16) = some i) :
    EncodedAs i (0x8000 + n.toNat + 0x100 * x.toNat + 0x10 * y.toNat) :=
  encodedAs_XY hw ((decode_op8 _ (Word.op_XY _ _ _ _)).trans hd)

theorem encodedAs_ldReg (x y : Reg) : EncodedAs (.ldReg x y) (0x8000 + 0x100 * x.toNat + 0x10 * y.toNat) :=
  encodedAs_op8 0x0 rfl (by simp [decodeFamily8])

theorem encodedAs_orReg (x y : Reg) : EncodedAs (.orReg x y) (0x8001 + 0x100 * x.toNat + 0x10 * y.toNat) :=
  encodedAs_op8 0x1 rfl (by simp [decodeFamily8])

theorem encodedAs_andReg (x y : Reg) : EncodedAs (.andReg x y) (0x8002 + 0x100 * x.toNat + 0x10 * y.toNat) :=
  encodedAs_op8 0x2 rfl (by simp [decodeFamily8])

theorem encodedAs_xorReg (x y : Reg) : EncodedAs (.xorReg x y) (0x8003 + 0x100 * x.toNat + 0x10 * y.toNat) :=
  encodedAs_op8 0x3 rfl (by simp [decodeFamily8])

theorem encodedAs_addReg (x y : Reg) : EncodedAs (.addReg x y) (0x8004 + 0x100 * x.toNat + 0x10 * y.toNat) :=
  encodedAs_op8 0x4 rfl (by simp [decodeFamily8])

theorem encodedAs_sub (x y : Reg) : EncodedAs (.sub x y) (0x8005 + 0x100 * x.toNat + 0x10 * y.toNat) :=
  encodedAs_op8 0x5 rfl (by simp [decodeFamily8])

theorem encodedAs_subn (x y : Reg) : EncodedAs (.subn x y) (0x8007 + 0x100 * x.toNat + 0x10 * y.toNat) :=
  encodedAs_op8 0x7 rfl (by simp [decodeFamily8])

/-! ### Only the result, the flag and `pc` change -/

theorem onlyRegs_setV_advance (s : State) (x : Reg) (u : Byte) : Frame.OnlyRegs [x] s (s.setV x u).advance := by
  refine ⟨fun k hk => ?_, fun _ => rfl, rfl, ⟨rfl, rfl⟩, ⟨rfl, rfl⟩, ⟨rfl, rfl⟩, rfl, rfl⟩
  rw [State.getV_advance, State.getV_setV, if_neg (List.ne_of_not_mem_cons hk)]

theorem onlyRegs_resultThenFlag (s : State) (x : Reg) (r : Byte) (c : Bool) :
    Frame.OnlyRegs [x, 0xF] s (s.resultThenFlag x r c) := by
  refine ⟨fun k hk => ?_, fun _ => rfl, rfl, ⟨rfl, rfl⟩, ⟨rfl, rfl⟩, ⟨rfl, rfl⟩, rfl, rfl⟩
  have hflag : k ≠ 0xF := List.ne_of_not_mem_cons (List.not_mem_of_not_mem_cons hk)
  rw [State.getV_resultThenFlag, if_neg hflag, if_neg (List.ne_of_not_mem_cons hk)]

/-! ### What an instruction of either shape leaves -/

theorem result_of_exec_setV {i : Instr} {s : State} {x : Reg} {u : Byte} (h : exec i s = .next (s.setV x u).advance) :
    ∃ t, exec i s = .next t ∧ t.getV x = u ∧ PcSequential s t ∧ Frame.OnlyRegs [x] s t :=
  ⟨_, h, State.getV_setV_self s x u, pcSequential_advance rfl, onlyRegs_setV_advance s x u⟩

theorem result_of_exec_resultThenFlag {i : Instr} {s : State} {x : Reg} {r : Byte} {c : Bool}
    (h : exec i s = .next (s.resultThenFlag x r c)) :
    ∃ t, exec i s = .next t ∧ (x ≠ 0xF → t.getV x = r) ∧ t.getV 0xF = (if c then 1 else 0) ∧
      PcSequential s t ∧ Frame.OnlyRegs [x, 0xF] s t := by
  refine ⟨_, h, fun hx => ?_, ?_, pcSequential_advance rfl, onlyRegs_resultThenFlag s x r c⟩
  · rw [State.getV_resultThenFlag, if_neg hx, if_pos rfl]
  · rw [State.getV_resultThenFlag, if_pos rfl]

/-! ### Bitwise results and differences -/

/-- An operation that works bit by bit leaves, in each bit of `VX`, that operation of the two old bits. -/
theorem bits_of_exec_setV {i : Instr} {s : State} {x y : Reg} {f : Byte → Byte → Byte} {g : Bool → Bool → Bool}
    (h : exec i s = .next (s.setV x (f (s.getV x) (s.getV y))).advance)
    (hfg : ∀ (a b : Byte) (j : Nat), (f a b).toNat.testBit j = g (a.toNat.testBit j) (b.toNat.testBit j)) :
    ∃ t, exec i s = .next t ∧
      (∀ j < 8, (t.getV x).toNat.testBit j = g ((s.getV x).toNat.testBit j) ((s.getV y).toNat.testBit j)) ∧
      PcSequential s t ∧ Frame.OnlyRegs [x] s t := by
  obtain ⟨t, ht, hx, hpc, hframe⟩ := result_of_exec_setV h
  exact ⟨t, ht, fun j _ => hx ▸ hfg _ _ j, hpc, hframe⟩

theorem toNat_subByte_eq_ite (a b : Byte) :
    (subByte a b).toNat = if b.toNat ≤ a.toNat then a.toNat - b.toNat else a.toNat + 256 - b.toNat := by
  have ha := a.isLt
  have hb := b.isLt
  rw [toNat_subByte]
  split <;> omega

theorem ite_noBorrow (a b : Byte) :
    (if noBorrow a b then 1 else 0 : Byte) = if a.toNat < b.toNat then 0 else 1 := by
  simp only [noBorrow_iff, ← Nat.not_lt, ite_not]

/-- `8XY5` and `8XY7` are one subtraction with its operands in either order. -/
theorem difference_of_exec {i : Instr} {s : State} {x : Reg} {a b : Byte}
    (h : exec i s = .next (s.resultThenFlag x (subByte a b) (noBorrow a b))) :
    ∃ t, exec i s = .next t ∧
      (x ≠ 0xF → (t.getV x).toNat = if b.toNat ≤ a.toNat then a.toNat - b.toNat else a.toNat + 256 - b.toNat) ∧
      t.getV 0xF = (if a.toNat < b.toNat then 0 else 1) ∧ PcSequential s t ∧ Frame.OnlyRegs [x, 0xF] s t := by
  obtain ⟨t, ht, hx, hflag, hpc, hframe⟩ := result_of_exec_resultThenFlag h
  exact ⟨t, ht, fun hne => hx hne ▸ toNat_subByte_eq_ite a b, hflag.trans (ite_noBorrow a b), hpc, hframe⟩

end Sys2Proof.Machine

namespace Sys2Proof

open Machine

/-- Settles O17: each is one `setV` of the copied value. -/
theorem loadsCopyIntoRegister : Obligations.LoadsCopyIntoRegister := by
  unfold Obligations.LoadsCopyIntoRegister
  exact ⟨fun x nn _ => ⟨encodedAs_ldImm x nn, result_of_exec_setV rfl⟩,
    fun x y _ => ⟨encodedAs_ldReg x y, result_of_exec_setV rfl⟩⟩

/-- Settles O18: one `setV` of the sum, and no flag. -/
theorem addImmediateWritesNoFlag : Obligations.AddImmediateWritesNoFlag := by
  unfold Obligations.AddImmediateWritesNoFlag
  intro x nn s
  obtain ⟨t, ht, hx, hpc, hframe⟩ :=
    result_of_exec_setV (show exec (.addImm x nn) s = .next (s.setV x (addByte (s.getV x) nn)).advance from rfl)
  exact ⟨encodedAs_addImm x nn, t, ht, hx ▸ toNat_addByte _ _, hpc, hframe⟩

/-- Settles O19: OR, AND and XOR of bit vectors work bit by bit. -/
theorem logicOperationsWriteNoFlag : Obligations.LogicOperationsWriteNoFlag := by
  unfold Obligations.LogicOperationsWriteNoFlag
  refine fun x y s => ⟨⟨encodedAs_orReg x y, bits_of_exec_setV (f := (· ||| ·)) rfl fun a b j => ?_⟩,
    ⟨encodedAs_andReg x y, bits_of_exec_setV (f := (· &&& ·)) rfl fun a b j => ?_⟩,
    ⟨encodedAs_xorReg x y, bits_of_exec_setV (f := (· ^^^ ·)) rfl fun a b j => ?_⟩⟩
  · rw [BitVec.toNat_or, Nat.testBit_or]
  · rw [BitVec.toNat_and, Nat.testBit_and]
  · rw [BitVec.toNat_xor, Nat.testBit_xor]

/-- Settles O20: the carry is written after the sum, so it is what `VF` holds for every `X`. -/
theorem addWritesCarry : Obligations.AddWritesCarry := by
  unfold Obligations.AddWritesCarry
  intro x y s
  obtain ⟨t, ht, hx, hflag, hpc, hframe⟩ := result_of_exec_resultThenFlag (show exec (.addReg x y) s =
    .next (s.resultThenFlag x (addByte (s.getV x) (s.getV y)) (carry (s.getV x) (s.getV y))) from rfl)
  simp only [carry_iff] at hflag
  exact ⟨encodedAs_addReg x y, t, ht, fun hne => hx hne ▸ toNat_addByte _ _, hflag, hpc, hframe⟩

/-- Settles O21: one subtraction, its operands in either order. -/
theorem subtractionsWriteNoBorrow : Obligations.SubtractionsWriteNoBorrow := by
  unfold Obligations.SubtractionsWriteNoBorrow
  exact fun x y _ => ⟨⟨encodedAs_sub x y, difference_of_exec rfl⟩, ⟨encodedAs_subn x y, difference_of_exec rfl⟩⟩

end Sys2Proof

/-! Index register and memory (43_index_memory.md): `ANNN` and `FX33`. The bytes an instruction stores at `I`, and those it
leaves, follow from what memory reads as after a run of stored bytes; the decimal digits as numbers are said once. -/

namespace Sys2Proof.Machine

/-! ### The words of families `0xA` and `0xF` -/

theorem encodedAs_ldI (nnn : Addr) : EncodedAs (.ldI nnn) (0xA000 + nnn.toNat) :=
  encodedAs_A (op := 0xA) rfl (by rw [decode_opA _ (Word.op_A _ _), Word.nnn_A])

theorem encodedAs_opF {i : Instr} (nn : Byte) {x : Reg} (hw : encode i = 0xF#4 ++ x ++ nn)
    (hd : decodeFamilyF (0xF#4 ++ x ++ nn : BitVec 16) = some i) :
    EncodedAs i (0xF000 + nn.toNat + 0x100 * x.toNat) := by
  rw [Nat.add_right_comm]
  exact encodedAs_XI hw ((decode_opF _ (Word.op_XI _ _ _)).trans hd)

theorem encodedAs_ldB (x : Reg) : EncodedAs (.ldB x) (0xF033 + 0x100 * x.toNat) :=
  encodedAs_opF 0x33 rfl (by simp [decodeFamilyF])

/-! ### A run of stored bytes -/

theorem Memory.read_writeBytes_add {m : Memory} (hm : m.wf) {a : Nat} {us : List Byte}
    (ha : a + us.length ≤ Config.memSize) {k : Nat} (hk : k < us.length) :
    (m.writeBytes a us).read (a + k) = us[k] := by
  rw [Memory.read_writeBytes hm ha, if_pos ⟨Nat.le_add_right a k, Nat.add_lt_add_left hk a⟩, Nat.add_sub_cancel_left,
    List.getD_eq_getElem _ _ hk]

theorem memOutside_of_writeBytes {s t : State} {a : Nat} {us : List Byte} (hm : s.mem.wf)
    (ha : a + us.length ≤ Config.memSize) (ht : t.mem = s.mem.writeBytes a us) :
    Frame.MemOutside a us.length s t := by
  intro b hb
  rw [ht, Memory.read_writeBytes hm ha, if_neg (by omega)]

/-! ### The decimal digits as numbers -/

theorem toNat_getElem_bcdDigits (a : Byte) {k : Nat} (hk : k < 3) :
    ((bcdDigits a)[k]).toNat = [a.toNat / 100, a.toNat / 10 % 10, a.toNat % 10][k] := by
  have ha := a.isLt
  match k, hk with
  | 0, _ | 1, _ | 2, _ => exact (BitVec.toNat_ofNat _ _).trans (Nat.mod_eq_of_lt (by omega))

/-! ### What `FX33` does -/

/-- The record after `FX33` where it completes. -/
def State.storeDigits (s : State) (x : Reg) : State :=
  (s.setMem (s.mem.writeBytes (s.atI 0) (bcdDigits (s.getV x)))).advance

theorem exec_ldB_next {s : State} (x : Reg) (h : s.atI 2 ≤ 0xFFF) : exec (.ldB x) s = .next (s.storeDigits x) :=
  checkTop_next.2 ⟨h, rfl⟩

theorem exec_ldB_fault {s : State} (x : Reg) (h : 0xFFF < s.atI 2) :
    exec (.ldB x) s = .fault (.outOfBounds (s.atI 2)) :=
  checkTop_fault.2 ⟨h, rfl⟩

theorem State.digits_fit {s : State} (x : Reg) (h : s.atI 2 ≤ 0xFFF) :
    s.atI 0 + (bcdDigits (s.getV x)).length ≤ Config.memSize :=
  Nat.succ_le_succ h

theorem State.toNat_read_storeDigits {s : State} (x : Reg) (hm : s.mem.wf) (h : s.atI 2 ≤ 0xFFF) {k : Nat} (hk : k < 3) :
    ((s.storeDigits x).mem.read (s.atI k)).toNat =
      [(s.getV x).toNat / 100, (s.getV x).toNat / 10 % 10, (s.getV x).toNat % 10][k] :=
  (congrArg BitVec.toNat (Memory.read_writeBytes_add hm (State.digits_fit x h) hk)).trans (toNat_getElem_bcdDigits _ hk)

end Sys2Proof.Machine

namespace Sys2Proof

open Machine

/-- Settles O33: the three digits stand at `I`, `I + 1` and `I + 2`, and the stored run ends there. -/
theorem decimalDigitsAreStored : Obligations.DecimalDigitsAreStored := by
  unfold Obligations.DecimalDigitsAreStored
  refine fun x s => ⟨encodedAs_ldB x, fun hm h => ?_, exec_ldB_fault x⟩
  have hdigit {k : Nat} (hk : k < 3) := State.toNat_read_storeDigits x hm h hk
  have houtside : Frame.MemOutside (s.atI 0) 3 s (s.storeDigits x) :=
    memOutside_of_writeBytes hm (State.digits_fit x h) rfl
  exact ⟨s.storeDigits x, exec_ldB_next x h, hdigit (by decide), hdigit (by decide), hdigit (by decide), houtside,
    pcSequential_advance rfl, fun _ _ => rfl, rfl, ⟨rfl, rfl⟩, ⟨rfl, rfl⟩, ⟨rfl, rfl⟩, rfl, rfl⟩

/-- Settles O30: one `setIdx` of a 12-bit value, which is stored as it is. -/
theorem loadIndexImmediate : Obligations.LoadIndexImmediate := by
  unfold Obligations.LoadIndexImmediate
  refine fun nnn s => ⟨encodedAs_ldI nnn, (s.setIdx nnn.toNat).advance, rfl, ?_, pcSequential_advance rfl,
    fun _ _ => rfl, fun _ => rfl, ⟨rfl, rfl⟩, ⟨rfl, rfl⟩, ⟨rfl, rfl⟩, rfl, rfl⟩
  rw [State.advance_idx, State.setIdx_idx, toNat_ofNat_mod_4096, Nat.mod_eq_of_lt nnn.isLt]

end Sys2Proof

/-! The display (44_display.md): `00E0`. -/

namespace Sys2Proof

open Machine

/-- Settles O37: the new picture is the blank one (R210), and the replacement also sets draw-pending, whatever was there. -/
theorem clearScreenClearsEveryPixel : Obligations.ClearScreenClearsEveryPixel := by
  unfold Obligations.ClearScreenClearsEveryPixel
  exact fun s => ⟨⟨rfl, rfl⟩, (s.setPicture Framebuffer.clear).advance, rfl,
    fun px py _ _ => Framebuffer.pixel_clear px py, rfl, pcSequential_advance rfl,
    fun _ _ => rfl, fun _ => rfl, rfl, ⟨rfl, rfl⟩, ⟨rfl, rfl⟩, rfl, rfl⟩

end Sys2Proof

/-! The timers (45_keypad_timers.md): `FX07`, `FX15` and `FX18`. Each tick takes one from `ST` until it is 0, so the tone
after `n` ticks compares `n` with the value set. -/

namespace Sys2Proof.Machine

/-! ### The timer words of family `0xF` -/

theorem encodedAs_ldVxDt (x : Reg) : EncodedAs (.ldVxDt x) (0xF007 + 0x100 * x.toNat) :=
  encodedAs_opF 0x07 rfl (by simp [decodeFamilyF])

theorem encodedAs_ldDtVx (x : Reg) : EncodedAs (.ldDtVx x) (0xF015 + 0x100 * x.toNat) :=
  encodedAs_opF 0x15 rfl (by simp [decodeFamilyF])

theorem encodedAs_ldStVx (x : Reg) : EncodedAs (.ldStVx x) (0xF018 + 0x100 * x.toNat) :=
  encodedAs_opF 0x18 rfl (by simp [decodeFamilyF])

/-! ### The sound timer and the tone after several ticks -/

theorem State.toNat_st_iterate_timerTick (s : State) (n : Nat) :
    (State.timerTick^[n] s).st.toNat = s.st.toNat - n := by
  induction n with
  | zero => rfl
  | succ n ih => rw [Function.iterate_succ_apply', State.timerTick_st, toNat_tickDown, ih, Nat.sub_sub]

theorem State.tone_iterate_timerTick (s : State) (n : Nat) :
    (State.timerTick^[n] s).tone = decide (n < s.st.toNat) := by
  rw [State.tone, State.toNat_st_iterate_timerTick, decide_eq_decide, Nat.sub_pos_iff_lt]

end Sys2Proof.Machine

namespace Sys2Proof

open Machine

/-- Settles O42: execute moves the byte and leaves the tick to the Step, and the tone after `FX18` falls silent when the
ticks have counted `ST` down. -/
theorem timerInstructions : Obligations.TimerInstructions := by
  unfold Obligations.TimerInstructions
  refine fun x s => ⟨⟨encodedAs_ldVxDt x, ?_⟩, ⟨encodedAs_ldDtVx x, ?_⟩, encodedAs_ldStVx x, ?_⟩
  · exact ⟨(s.setV x s.dt).advance, rfl, State.getV_setV_self s x s.dt, toNat_tickDown s.dt, pcSequential_advance rfl,
      onlyRegs_setV_advance s x s.dt⟩
  · exact ⟨(s.setDt (s.getV x)).advance, rfl, rfl, toNat_tickDown (s.getV x), rfl, pcSequential_advance rfl,
      fun _ _ => rfl, fun _ => rfl, rfl, ⟨rfl, rfl⟩, ⟨rfl, rfl⟩, rfl, rfl⟩
  · exact ⟨(s.setSt (s.getV x)).advance, rfl, rfl, toNat_tickDown (s.getV x), rfl, State.tone_iterate_timerTick _,
      pcSequential_advance rfl, fun _ _ => rfl, fun _ => rfl, rfl, ⟨rfl, rfl⟩, ⟨rfl, rfl⟩, rfl, rfl⟩

end Sys2Proof

/-! Encoding (30_encoding.md section 5): `encode` and `decode` are inverse to each other, and the unknown words are the six
sets of section 4. Both go family by family: within a family, one lemma says what the sub-classifier does. -/

namespace Sys2Proof

/-! ### Decode after encode, by the format of the word -/

theorem decode_encode (i : Instr) : decode (encode i) = some i := by
  cases i with
  | cls | ret => rfl
  | jp nnn | call nnn | ldI nnn | jpV0 nnn => simp [encode, decode]
  | seImm x nn | sneImm x nn | ldImm x nn | addImm x nn | rnd x nn => simp [encode, decode]
  | seReg x y => simp [encode, decode, decodeFamily5]
  | ldReg x y | orReg x y | andReg x y | xorReg x y | addReg x y | sub x y | shr x y | subn x y | shl x y =>
    simp [encode, decode, decodeFamily8]
  | sneReg x y => simp [encode, decode, decodeFamily9]
  | drw x y n => simp [encode, decode]
  | skp x | sknp x => simp [encode, decode, decodeFamilyE]
  | ldVxDt x | ldVxK x | ldDtVx x | ldStVx x | addI x | ldF x | ldB x | ldMemVx x | ldVxMem x =>
    simp [encode, decode, decodeFamilyF]

/-! ### Encode after decode: the word is its fields put together again -/

section
variable {w : Word} {op : BitVec 4}

theorem Word.append_nnn (h : Word.op w = op) : (op ++ Word.nnn w : BitVec 16) = w := by
  rw [← h, Word.eq_op_nnn]

theorem Word.append_x_nn (h : Word.op w = op) : (op ++ Word.x w ++ Word.nn w : BitVec 16) = w := by
  rw [← h, Word.eq_op_x_nn]

theorem Word.append_x_y_n (h : Word.op w = op) : (op ++ Word.x w ++ Word.y w ++ Word.n w : BitVec 16) = w := by
  rw [← h, Word.eq_op_x_y_n]

end

section
variable {w : Word} {i : Instr}

theorem encode_of_decodeFamily0 (h : decodeFamily0 w = some i) : encode i = w := by
  unfold decodeFamily0 at h
  repeat
    split at h
    · next hw => cases h; exact hw.symm
  cases h

theorem encode_of_decodeFamily5 (h : decodeFamily5 w = some i) :
    encode i = 0x5#4 ++ Word.x w ++ Word.y w ++ Word.n w := by
  unfold decodeFamily5 at h
  split at h
  · next hn => cases h; rw [hn]; rfl
  cases h

theorem encode_of_decodeFamily8 (h : decodeFamily8 w = some i) :
    encode i = 0x8#4 ++ Word.x w ++ Word.y w ++ Word.n w := by
  unfold decodeFamily8 at h
  repeat
    split at h
    · next hn => cases h; rw [hn]; rfl
  cases h

theorem encode_of_decodeFamily9 (h : decodeFamily9 w = some i) :
    encode i = 0x9#4 ++ Word.x w ++ Word.y w ++ Word.n w := by
  unfold decodeFamily9 at h
  split at h
  · next hn => cases h; rw [hn]; rfl
  cases h

theorem encode_of_decodeFamilyE (h : decodeFamilyE w = some i) : encode i = 0xE#4 ++ Word.x w ++ Word.nn w := by
  unfold decodeFamilyE at h
  repeat
    split at h
    · next hnn => cases h; rw [hnn]; rfl
  cases h

theorem encode_of_decodeFamilyF (h : decodeFamilyF w = some i) : encode i = 0xF#4 ++ Word.x w ++ Word.nn w := by
  unfold decodeFamilyF at h
  repeat
    split at h
    · next hnn => cases h; rw [hnn]; rfl
  cases h

theorem encode_of_decode (hi : decode w = some i) : encode i = w := by
  rcases nibble_cases (Word.op w) with h | h | h | h | h | h | h | h | h | h | h | h | h | h | h | h
  · exact encode_of_decodeFamily0 (decode_op0 w h ▸ hi)
  · cases (decode_op1 w h).symm.trans hi; exact Word.append_nnn h
  · cases (decode_op2 w h).symm.trans hi; exact Word.append_nnn h
  · cases (decode_op3 w h).symm.trans hi; exact Word.append_x_nn h
  · cases (decode_op4 w h).symm.trans hi; exact Word.append_x_nn h
  · exact (encode_of_decodeFamily5 (decode_op5 w h ▸ hi)).trans (Word.append_x_y_n h)
  · cases (decode_op6 w h).symm.trans hi; exact Word.append_x_nn h
  · cases (decode_op7 w h).symm.trans hi; exact Word.append_x_nn h
  · exact (encode_of_decodeFamily8 (decode_op8 w h ▸ hi)).trans (Word.append_x_y_n h)
  · exact (encode_of_decodeFamily9 (decode_op9 w h ▸ hi)).trans (Word.append_x_y_n h)
  · cases (decode_opA w h).symm.trans hi; exact Word.append_nnn h
  · cases (decode_opB w h).symm.trans hi; exact Word.append_nnn h
  · cases (decode_opC w h).symm.trans hi; exact Word.append_x_nn h
  · cases (decode_opD w h).symm.trans hi; exact Word.append_x_y_n h
  · exact (encode_of_decodeFamilyE (decode_opE w h ▸ hi)).trans (Word.append_x_nn h)
  · exact (encode_of_decodeFamilyF (decode_opF w h ▸ hi)).trans (Word.append_x_nn h)

end

/-! ### The words a sub-classifier does not know, as numbers (R96) -/

section
variable (w : Word)

theorem Word.n_eq_iff (c : BitVec 4) : Word.n w = c ↔ w.toNat % 16 = c.toNat := by
  rw [← BitVec.toNat_inj, Word.toNat_n]

theorem Word.nn_eq_iff (c : Byte) : Word.nn w = c ↔ w.toNat % 256 = c.toNat := by
  rw [← BitVec.toNat_inj, Word.toNat_nn]

theorem ite_some_eq_none {p : Prop} [Decidable p] (i : Instr) (o : Option Instr) :
    (if p then some i else o) = none ↔ ¬ p ∧ o = none := by
  split <;> simp [*]

theorem decodeFamily0_eq_none : decodeFamily0 w = none ↔ w.toNat ≠ 0x00E0 ∧ w.toNat ≠ 0x00EE := by
  simp [decodeFamily0, ite_some_eq_none, ← BitVec.toNat_inj]

theorem decodeFamily5_eq_none : decodeFamily5 w = none ↔ w.toNat % 16 ≠ 0 := by
  simp [decodeFamily5, Word.n_eq_iff]

theorem decodeFamily8_eq_none :
    decodeFamily8 w = none ↔ w.toNat % 16 ∈ [0x8, 0x9, 0xA, 0xB, 0xC, 0xD, 0xF] := by
  simp [decodeFamily8, ite_some_eq_none, Word.n_eq_iff]
  omega

theorem decodeFamily9_eq_none : decodeFamily9 w = none ↔ w.toNat % 16 ≠ 0 := by
  simp [decodeFamily9, Word.n_eq_iff]

theorem decodeFamilyE_eq_none : decodeFamilyE w = none ↔ w.toNat % 256 ∉ [0x9E, 0xA1] := by
  simp [decodeFamilyE, ite_some_eq_none, Word.nn_eq_iff]

theorem decodeFamilyF_eq_none :
    decodeFamilyF w = none ↔ w.toNat % 256 ∉ [0x07, 0x0A, 0x15, 0x18, 0x1E, 0x29, 0x33, 0x55, 0x65] := by
  simp [decodeFamilyF, ite_some_eq_none, Word.nn_eq_iff]

end

/-- Settles O2: the fields of a word written digit by digit are the digits written. -/
theorem decodeOfEncode : Obligations.DecodeOfEncode := by
  unfold Obligations.DecodeOfEncode
  exact decode_encode

/-- Settles O3: each family's decoder keeps every field its format has, and the fields make up the word. -/
theorem encodeOfDecode : Obligations.EncodeOfDecode := by
  unfold Obligations.EncodeOfDecode
  exact fun w i => encode_of_decode

/-- Settles O5: the family nibble leaves one of the six sets, if any, and the family's own lemma says that set. -/
theorem unknownWordsAreTheSixSets : Obligations.UnknownWordsAreTheSixSets := by
  unfold Obligations.UnknownWordsAreTheSixSets
  intro w
  have hop := Word.toNat_op w
  have hsmall : w.toNat ≤ 0x0FFF ↔ w.toNat / 4096 = 0 := by omega
  rw [hsmall, ← hop]
  rcases nibble_cases (Word.op w) with h | h | h | h | h | h | h | h | h | h | h | h | h | h | h | h
  · simp [decode_op0 w h, decodeFamily0_eq_none, h]
  · simp [decode_op1 w h, h]
  · simp [decode_op2 w h, h]
  · simp [decode_op3 w h, h]
  · simp [decode_op4 w h, h]
  · simp [decode_op5 w h, decodeFamily5_eq_none, h]
  · simp [decode_op6 w h, h]
  · simp [decode_op7 w h, h]
  · simp [decode_op8 w h, decodeFamily8_eq_none, h]
  · simp [decode_op9 w h, decodeFamily9_eq_none, h]
  · simp [decode_opA w h, h]
  · simp [decode_opB w h, h]
  · simp [decode_opC w h, h]
  · simp [decode_opD w h, h]
  · simp [decode_opE w h, decodeFamilyE_eq_none, h]
  · simp [decode_opF w h, decodeFamilyF_eq_none, h]

/-- Settles O1: the words are fixed, and the decoder computes. -/
theorem sampleWordsDecode : Obligations.SampleWordsDecode := by
  unfold Obligations.SampleWordsDecode
  decide

end Sys2Proof

/-! The execute phase said once (60_exceptions.md R280, R287): an instruction raises the error listed for it or leaves one
certain record, `State.effectOf` (`exec_eq_outcome`). What is below about errors, fields and frames is about that record,
instruction by instruction. -/

namespace Sys2Proof.Machine

/-! ### Outcomes -/

/-- The record inside an outcome; `s` where there is none. -/
def nextOr (s : State) : Result → State
  | .next t => t
  | .fault _ | .refused _ => s

/-- The outcome of an instruction from the error it raises, if any, and the record it leaves if there is none. -/
def outcome : Option Fault → State → Result
  | none, t => .next t
  | some e, _ => .fault e

theorem outcome_next {o : Option Fault} {t u : State} : outcome o t = .next u ↔ o = none ∧ u = t := by
  cases o <;> simp [outcome, eq_comm]

theorem outcome_fault {o : Option Fault} {t : State} {e : Fault} : outcome o t = .fault e ↔ o = some e := by
  cases o <;> simp [outcome]

theorem outcome_ne_refused (o : Option Fault) (t : State) (r : Refusal) : outcome o t ≠ .refused r := by
  cases o <;> nofun

/-! ### The record an instruction leaves -/

/-- A skip is one write of `pc` (R123, class skip). -/
def State.skipping (s : State) (c : Bool) : State := s.setPc (s.pc.toNat + if c then 4 else 2)

theorem State.skipIf_eq (s : State) (c : Bool) : s.skipIf c = s.skipping c := by
  cases c <;> rfl

/-- The record after `FX55` where it completes. -/
def State.storeRegs (s : State) (x : Reg) : State :=
  ((s.setMem (s.mem.writeBytes (s.atI 0) (s.regBytes x))).setIdx (s.atI (x.toNat + 1))).advance

/-- The record after `FX65` where it completes. -/
def State.fillRegs (s : State) (x : Reg) : State :=
  (State.setIdx { s with v := loadRegs s.mem (s.atI 0) (x.toNat + 1) s.v } (s.atI (x.toNat + 1))).advance

/-- The record after `DXYN` where it completes. -/
def State.drawSprite (s : State) (x y : Reg) (n : BitVec 4) : State :=
  ((s.setPicture (s.drawing x y n).fb).setFlag (s.drawing x y n).hit).advance

/-- The word `2NNN` pushes (R142). -/
def State.returnAddress (s : State) : Word := BitVec.ofNat 16 ((s.pc.toNat + 2) % Config.memSize)

/-- The record an instruction leaves where no error is listed for it. The arms written out are the instructions that can
raise an error, and those whose record `exec` gives by a case distinction. -/
def State.effectOf (s : State) : Instr → State
  | .ret => State.setPc { s with sp := ⟨s.sp.val - 1, by omega⟩ } (s.stack.toList.getD (s.sp.val - 1) 0).toNat
  | .call nnn =>
    State.setPc { s with stack := s.stack.setIfInBounds s.sp.val s.returnAddress, sp := ⟨min (s.sp.val + 1) 16, by omega⟩ }
      nnn.toNat
  | .seImm x nn => s.skipping (s.getV x == nn)
  | .sneImm x nn => s.skipping (s.getV x != nn)
  | .seReg x y => s.skipping (s.getV x == s.getV y)
  | .sneReg x y => s.skipping (s.getV x != s.getV y)
  | .skp x => s.skipping (s.keyDown (s.getV x).toNat == true)
  | .sknp x => s.skipping (s.keyDown (s.getV x).toNat == false)
  | .ldVxK x =>
    { s with
      v := s.lowestKey.elim s.v fun k => (s.setV x (BitVec.ofNat 8 k)).v
      pc := s.lowestKey.elim s.pc fun _ => s.advance.pc }
  | .drw x y n => s.drawSprite x y n
  | .ldB x => s.storeDigits x
  | .ldMemVx x => s.storeRegs x
  | .ldVxMem x => s.fillRegs x
  | i => nextOr s (exec i s)

/-! ### Every instruction raises its listed error or leaves that record -/

theorem checkTop_eq_outcome (top : Nat) (t : State) : checkTop top t = outcome (pastTop top) t := by
  unfold checkTop pastTop Config.maxAddr
  split <;> rfl

theorem State.skipOnKey_eq_outcome (s : State) (x : Reg) (whenDown : Bool) :
    s.skipOnKey x whenDown = outcome (badKey (s.getV x)) (s.skipping (s.keyDown (s.getV x).toNat == whenDown)) := by
  unfold State.skipOnKey badKey
  split
  · rfl
  · rw [State.skipIf_eq]
    rfl

theorem execRet_eq_outcome (s : State) : execRet s = outcome (s.errorOf .ret) (s.effectOf .ret) := by
  by_cases h : s.sp.val = 0
  · have herr : s.errorOf .ret = some .stackUnderflow := if_pos h
    rw [execRet, State.popAndGo_empty h, herr]
    rfl
  · have herr : s.errorOf .ret = none := if_neg h
    have htop : s.sp.val - 1 < s.stack.toList.length := by
      rw [Vector.length_toList]
      omega
    rw [execRet, State.popAndGo_next (Nat.pos_of_ne_zero h), herr, State.effectOf, List.getD_eq_getElem _ _ htop,
      Vector.getElem_toList]
    rfl

theorem execCall_eq_outcome (nnn : Addr) (s : State) :
    execCall nnn s = outcome (s.errorOf (.call nnn)) (s.effectOf (.call nnn)) := by
  by_cases h : s.sp.val = 16
  · have herr : s.errorOf (.call nnn) = some .stackOverflow := if_pos h
    rw [execCall, State.pushAndGo_full h, herr]
    rfl
  · have herr : s.errorOf (.call nnn) = none := if_neg h
    have hlt : s.sp.val < 16 := by omega
    have hsp : min (s.sp.val + 1) 16 = s.sp.val + 1 := by omega
    have hset : s.stack.setIfInBounds s.sp.val s.returnAddress = s.stack.set s.sp.val s.returnAddress hlt := by
      apply Vector.ext
      intro k hk
      rw [Vector.getElem_setIfInBounds, Vector.getElem_set]
    rw [execCall, State.pushAndGo_next hlt, herr]
    simp only [outcome, State.effectOf, hset, hsp]
    rfl

theorem execDrw_eq_outcome (x y : Reg) (n : BitVec 4) (s : State) :
    execDrw x y n s = outcome (s.errorOf (.drw x y n)) (s.drawSprite x y n) := by
  unfold execDrw
  by_cases h : n = 0
  · subst h
    rfl
  · have hn : n.toNat ≠ 0 := fun e => h (BitVec.eq_of_toNat_eq e)
    have herr : s.errorOf (.drw x y n) = pastTop (s.idx.toNat + n.toNat - 1) := if_neg hn
    have htop : s.atI (n.toNat - 1) = s.idx.toNat + n.toNat - 1 := by
      unfold State.atI
      omega
    rw [herr, ← htop, ← checkTop_eq_outcome]
    exact if_neg h

theorem execLdVxK_eq_outcome (x : Reg) (s : State) : execLdVxK x s = outcome none (s.effectOf (.ldVxK x)) := by
  unfold State.effectOf execLdVxK
  cases s.lowestKey <;> rfl

theorem exec_eq_outcome (i : Instr) (s : State) : exec i s = outcome (s.errorOf i) (s.effectOf i) := by
  cases i with
  | ret => exact execRet_eq_outcome s
  | call nnn => exact execCall_eq_outcome nnn s
  | seImm x nn | sneImm x nn => exact congrArg Host.Outcome.next (s.skipIf_eq _)
  | seReg x y | sneReg x y => exact congrArg Host.Outcome.next (s.skipIf_eq _)
  | skp x | sknp x => exact s.skipOnKey_eq_outcome x _
  | ldVxK x => exact execLdVxK_eq_outcome x s
  | drw x y n => exact execDrw_eq_outcome x y n s
  | ldB x | ldMemVx x | ldVxMem x => exact checkTop_eq_outcome _ _
  | _ => rfl

theorem exec_next {i : Instr} {s t : State} : exec i s = .next t ↔ s.errorOf i = none ∧ t = s.effectOf i := by
  rw [exec_eq_outcome, outcome_next]

theorem exec_fault {i : Instr} {s : State} {e : Fault} : exec i s = .fault e ↔ s.errorOf i = some e := by
  rw [exec_eq_outcome, outcome_fault]

theorem exec_ne_refused (i : Instr) (s : State) (r : Refusal) : exec i s ≠ .refused r := by
  rw [exec_eq_outcome]
  exact outcome_ne_refused _ _ r

/-! ### Where each error comes from -/

theorem pastTop_eq_none {top : Nat} : pastTop top = none ↔ top ≤ 0xFFF := by
  simp [pastTop]

theorem pastTop_eq_some {top : Nat} {e : Fault} : pastTop top = some e ↔ 0xFFF < top ∧ e = .outOfBounds top := by
  simp [pastTop, eq_comm]

theorem badKey_eq_some {k : Byte} {e : Fault} : badKey k = some e ↔ 15 < k.toNat ∧ e = .outOfBounds k.toNat := by
  simp [badKey, eq_comm]

/-- An error that is no `OutOfBounds` is one of the two of the stack. -/
theorem State.errorOf_stack {s : State} {i : Instr} {e : Fault} (he : ∀ a, e ≠ .outOfBounds a) :
    s.errorOf i = some e ↔ ((∃ nnn, i = .call nnn) ∧ s.sp.val = 16 ∧ e = .stackOverflow) ∨
      (i = .ret ∧ s.sp.val = 0 ∧ e = .stackUnderflow) := by
  cases i with
  | call nnn => simp [State.errorOf, eq_comm]
  | ret => simp [State.errorOf, eq_comm]
  | drw x y n => simp [State.errorOf, pastTop_eq_some, he]
  | ldB x | ldMemVx x | ldVxMem x => simp [State.errorOf, pastTop_eq_some, he]
  | skp x | sknp x => simp [State.errorOf, badKey_eq_some, he]
  | _ => simp [State.errorOf]

theorem exec_stackOverflow {i : Instr} {s : State} :
    exec i s = .fault .stackOverflow ↔ (∃ nnn, i = .call nnn) ∧ s.sp.val = 16 := by
  rw [exec_fault, State.errorOf_stack (e := .stackOverflow) fun _ => nofun]
  simp

theorem exec_stackUnderflow {i : Instr} {s : State} :
    exec i s = .fault .stackUnderflow ↔ i = .ret ∧ s.sp.val = 0 := by
  rw [exec_fault, State.errorOf_stack (e := .stackUnderflow) fun _ => nofun]
  simp

/-! ### Step and its report -/

/-- An error that fetch and decode do not raise comes from the fetched instruction. -/
theorem step_fault_of_exec {s : State} {e : Fault} (hbounds : ∀ a, e ≠ .outOfBounds a) (hop : ∀ w, e ≠ .unknownOpcode w) :
    step s = .fault e ↔ ∃ i, s.fetchInstr = .ok i ∧ exec i s = .fault e := by
  rw [step_fault, State.fetchInstr_error]
  simp [hbounds, hop]

theorem step_ne_refused (s : State) (r : Refusal) : step s ≠ .refused r := by
  unfold step cycle
  cases s.fetchInstr with
  | error e => nofun
  | ok i =>
    dsimp only
    rw [exec_eq_outcome]
    cases s.errorOf i <;> nofun

/-- A Step fails or answers a next state. -/
theorem step_cases (s : State) : (∃ e, step s = .fault e) ∨ ∃ t, step s = .next t := by
  cases h : step s with
  | next t => exact .inr ⟨t, rfl⟩
  | fault e => exact .inl ⟨e, rfl⟩
  | refused r => exact absurd h (step_ne_refused s r)

theorem stepReport_of_fault {s : State} {e : Fault} (h : step s = .fault e) :
    stepReport s = { state := s, result := .error e, tone := false } := by
  unfold stepReport
  obtain hf | ⟨i, hf, he⟩ := step_fault.1 h
  · simp only [hf]
  · simp only [hf, he]

theorem stepReport_of_next {s u : State} {i : Instr} (hf : s.fetchInstr = .ok i) (he : exec i s = .next u) :
    stepReport s =
      { state := u.timerTick, result := if s.awaitsKey i then .awaitingKey else .ok, tone := u.tone } := by
  unfold stepReport
  simp only [hf, he]

theorem State.awaitsKey_iff {s : State} {i : Instr} : s.awaitsKey i = true ↔ (∃ x, i = .ldVxK x) ∧ s.NoKey := by
  rw [State.NoKey, ← State.lowestKey_eq_none]
  cases i with
  | ldVxK x => simp [State.awaitsKey]
  | _ => simp [State.awaitsKey]

/-- With no key pressed `FX0A` leaves the record as it is. -/
theorem exec_ldVxK_of_noKey {s : State} (h : s.NoKey) (x : Reg) : exec (.ldVxK x) s = .next s := by
  simp only [exec, execLdVxK, s.lowestKey_eq_none.2 h]

end Sys2Proof.Machine

namespace Sys2Proof

open Machine

/-- Settles O10: neither fetch nor decode raises a stack error, and of the listed errors only two are. -/
theorem stackErrorsComeFromCallAndReturnOnly : Obligations.StackErrorsComeFromCallAndReturnOnly := by
  unfold Obligations.StackErrorsComeFromCallAndReturnOnly
  refine ⟨fun i s => ⟨exec_stackOverflow, exec_stackUnderflow⟩,
    fun s => ⟨?_, ?_, stepReport_of_fault, stepReport_of_fault⟩⟩
  · rw [step_fault_of_exec (e := .stackOverflow) (fun _ => nofun) fun _ => nofun]
    simp only [exec_stackOverflow]
    constructor
    · rintro ⟨_, hf, ⟨nnn, rfl⟩, hsp⟩
      exact ⟨⟨nnn, hf⟩, hsp⟩
    · rintro ⟨⟨nnn, hf⟩, hsp⟩
      exact ⟨_, hf, ⟨nnn, rfl⟩, hsp⟩
  · rw [step_fault_of_exec (e := .stackUnderflow) (fun _ => nofun) fun _ => nofun]
    simp only [exec_stackUnderflow]
    constructor
    · rintro ⟨_, hf, rfl, hsp⟩
      exact ⟨hf, hsp⟩
    · rintro ⟨hf, hsp⟩
      exact ⟨_, hf, rfl, hsp⟩

/-- Settles O11: `exec_eq_outcome` reads the error off the list. -/
theorem errorsAreExactlyTheListed : Obligations.ErrorsAreExactlyTheListed := by
  unfold Obligations.ErrorsAreExactlyTheListed
  exact fun i s e => exec_fault

/-- Settles O12: where the list names no error, `exec_eq_outcome` gives the record. -/
theorem everyInstructionHasAMeaning : Obligations.EveryInstructionHasAMeaning := by
  unfold Obligations.EveryInstructionHasAMeaning
  exact ⟨fun i s h => ⟨s.effectOf i, exec_next.2 ⟨h, rfl⟩⟩, exec_ne_refused, step_ne_refused⟩

/-- Settles O13: a Step fails or answers a next state, and the report is read off either way. -/
theorem failedStepKeepsTheRecord : Obligations.FailedStepKeepsTheRecord := by
  unfold Obligations.FailedStepKeepsTheRecord
  intro s e
  obtain ⟨d, hd⟩ | ⟨u, hu⟩ := step_cases s
  · simp [stepReport_of_fault hd, hd]
  · obtain ⟨i, v, hf, he, rfl⟩ := step_next.1 hu
    rw [stepReport_of_next hf he, hu]
    cases s.awaitsKey i <;> simp

/-- Settles O14: the result names `FX0A` and the keypad, and then execute leaves the record to the tick. -/
theorem awaitingKeyChangesOnlyTimers : Obligations.AwaitingKeyChangesOnlyTimers := by
  unfold Obligations.AwaitingKeyChangesOnlyTimers
  intro s
  have hiff : (stepReport s).result = .awaitingKey ↔ (∃ x, s.fetchInstr = .ok (.ldVxK x)) ∧ s.NoKey := by
    constructor
    · intro h
      obtain ⟨d, hd⟩ | ⟨u, hu⟩ := step_cases s
      · rw [stepReport_of_fault hd] at h
        cases h
      · obtain ⟨i, v, hf, he, rfl⟩ := step_next.1 hu
        have hawaits : s.awaitsKey i = true := by simpa [stepReport_of_next hf he] using h
        obtain ⟨⟨x, rfl⟩, hkey⟩ := State.awaitsKey_iff.1 hawaits
        exact ⟨⟨x, hf⟩, hkey⟩
    · rintro ⟨⟨x, hf⟩, hkey⟩
      rw [stepReport_of_next hf (exec_ldVxK_of_noKey hkey x), State.awaitsKey_iff.2 ⟨⟨x, rfl⟩, hkey⟩]
      rfl
  refine ⟨hiff, fun h => ?_⟩
  obtain ⟨⟨x, hf⟩, hkey⟩ := hiff.1 h
  have he := exec_ldVxK_of_noKey hkey x
  exact ⟨by rw [stepReport_of_next hf he], step_next.2 ⟨_, s, hf, he, rfl⟩, rfl⟩

/-- Settles O15: the report takes the tone from the record execute left. -/
theorem toneIsSoundTimerBeforeTick : Obligations.ToneIsSoundTimerBeforeTick := by
  unfold Obligations.ToneIsSoundTimerBeforeTick
  intro s
  constructor
  · intro h
    obtain ⟨d, hd⟩ | ⟨u, hu⟩ := step_cases s
    · rw [stepReport_of_fault hd] at h
      cases h
    · obtain ⟨i, v, hf, he, rfl⟩ := step_next.1 hu
      rw [stepReport_of_next hf he] at h
      exact ⟨i, v, hf, he, of_decide_eq_true h⟩
  · rintro ⟨i, u, hf, he, hst⟩
    rw [stepReport_of_next hf he]
    exact decide_eq_true hst

/-- Settles O8: the tick follows execute, and it changes the two timers alone. -/
theorem stepTicksBothTimersOnce : Obligations.StepTicksBothTimersOnce := by
  unfold Obligations.StepTicksBothTimersOnce
  intro s t h
  obtain ⟨i, u, hf, he, rfl⟩ := step_next.1 h
  obtain ⟨hpc, hd⟩ := State.fetchInstr_ok.1 hf
  exact ⟨i, u, hpc, hd, he, toNat_tickDown u.dt, toNat_tickDown u.st, rfl⟩

/-- Settles O7: the bytes at `pc` are what is fetched and decoded. -/
theorem stepRunsTheDecodedInstruction : Obligations.StepRunsTheDecodedInstruction := by
  unfold Obligations.StepRunsTheDecodedInstruction
  intro s i hpc hd
  have hf : s.fetchInstr = .ok i := State.fetchInstr_ok.2 ⟨hpc, hd⟩
  simp only [step, cycle, hf]
  cases exec i s <;> rfl

/-- Settles O9: fetch and decode come before execute and the tick. -/
theorem unknownWordRaisesBeforeAnyEffect : Obligations.UnknownWordRaisesBeforeAnyEffect := by
  unfold Obligations.UnknownWordRaisesBeforeAnyEffect
  intro s w hs hw
  have hstep : step s = .fault (.unknownOpcode w) := step_fault.2 (.inl (State.fetchInstr_of_unknown hs hw))
  exact ⟨hstep, stepReport_of_fault hstep⟩

end Sys2Proof

/-! Who writes what (10_state.md sections 1 to 5): which fields and registers the record an instruction leaves has in common
with the one before, that no Step reads `ST` or a dead stack entry, and the invariant. -/

namespace Sys2Proof.Machine

section
variable {s : State} {i : Instr}

/-! ### Fields (10_state.md section 1) -/

theorem effectOf_keypad : (s.effectOf i).keypad = s.keypad := by
  cases i <;> rfl

theorem effectOf_mem (hldB : ∀ x, i ≠ .ldB x) (hstore : ∀ x, i ≠ .ldMemVx x) : (s.effectOf i).mem = s.mem := by
  cases i with
  | ldB x => exact absurd rfl (hldB x)
  | ldMemVx x => exact absurd rfl (hstore x)
  | _ => rfl

theorem effectOf_idx (hldI : ∀ nnn, i ≠ .ldI nnn) (haddI : ∀ x, i ≠ .addI x) (hldF : ∀ x, i ≠ .ldF x)
    (hstore : ∀ x, i ≠ .ldMemVx x) (hload : ∀ x, i ≠ .ldVxMem x) : (s.effectOf i).idx = s.idx := by
  cases i with
  | ldI nnn => exact absurd rfl (hldI nnn)
  | addI x => exact absurd rfl (haddI x)
  | ldF x => exact absurd rfl (hldF x)
  | ldMemVx x => exact absurd rfl (hstore x)
  | ldVxMem x => exact absurd rfl (hload x)
  | _ => rfl

theorem effectOf_stack (hcall : ∀ nnn, i ≠ .call nnn) : (s.effectOf i).stack = s.stack := by
  cases i with
  | call nnn => exact absurd rfl (hcall nnn)
  | _ => rfl

theorem effectOf_sp (hcall : ∀ nnn, i ≠ .call nnn) (hret : i ≠ .ret) : (s.effectOf i).sp = s.sp := by
  cases i with
  | call nnn => exact absurd rfl (hcall nnn)
  | ret => exact absurd rfl hret
  | _ => rfl

theorem effectOf_dt (hset : ∀ x, i ≠ .ldDtVx x) : (s.effectOf i).dt = s.dt := by
  cases i with
  | ldDtVx x => exact absurd rfl (hset x)
  | _ => rfl

theorem effectOf_st (hset : ∀ x, i ≠ .ldStVx x) : (s.effectOf i).st = s.st := by
  cases i with
  | ldStVx x => exact absurd rfl (hset x)
  | _ => rfl

theorem effectOf_picture (hcls : i ≠ .cls) (hdrw : ∀ x y n, i ≠ .drw x y n) :
    (s.effectOf i).fb = s.fb ∧ (s.effectOf i).drawPending = s.drawPending := by
  cases i with
  | cls => exact absurd rfl hcls
  | drw x y n => exact absurd rfl (hdrw x y n)
  | _ => exact ⟨rfl, rfl⟩

theorem effectOf_draws (hrnd : ∀ x nn, i ≠ .rnd x nn) : (s.effectOf i).draws = s.draws := by
  cases i with
  | rnd x nn => exact absurd rfl (hrnd x nn)
  | _ => rfl

/-! ### General registers (10_state.md sections 2 and 3) -/

theorem getV_setV_of_ne {x k : Reg} (u : Byte) (h : k ≠ x) : (s.setV x u).getV k = s.getV k := by
  rw [State.getV_setV, if_neg h]

theorem getV_setFlag_of_ne {k : Reg} (c : Bool) (h : k ≠ 0xF) : (s.setFlag c).getV k = s.getV k := by
  rw [State.getV_setFlag, if_neg h]

theorem getV_resultThenFlag_of_ne {x k : Reg} (r : Byte) (c : Bool) (h : ¬ (k = x ∨ k = 0xF)) :
    (s.resultThenFlag x r c).getV k = s.getV k := by
  rw [State.getV_resultThenFlag, if_neg fun e => h (.inr e), if_neg fun e => h (.inl e)]

theorem getV_flagThenResult_of_ne {x k : Reg} (r : Byte) (c : Bool) (h : ¬ (k = x ∨ k = 0xF)) :
    (s.flagThenResult x r c).getV k = s.getV k := by
  rw [State.getV_flagThenResult, if_neg fun e => h (.inl e), if_neg fun e => h (.inr e)]

/-- `FX65` loads `V[0..X]` and leaves the registers above. -/
theorem getV_fillRegs (x k : Reg) :
    (s.fillRegs x).getV k = if k.toNat ≤ x.toNat then s.mem.read (s.atI k.toNat) else s.getV k := by
  have hload := getElem_loadRegs s.mem (s.atI 0) (x.toNat + 1) s.v k.toNat k.isLt
  simp only [Nat.lt_succ_iff] at hload
  exact hload

theorem getV_effectOf_ldVxK {x k : Reg} (h : k ≠ x) : (s.effectOf (.ldVxK x)).getV k = s.getV k := by
  simp only [State.effectOf, State.getV_eq]
  cases s.lowestKey with
  | none => rfl
  | some n => exact getV_setV_of_ne _ h

theorem getV_effectOf {k : Reg} (h : ¬ i.writesReg k) : (s.effectOf i).getV k = s.getV k := by
  cases i with
  | ldImm x nn | addImm x nn | rnd x nn => exact getV_setV_of_ne _ h
  | ldReg x y | orReg x y | andReg x y | xorReg x y => exact getV_setV_of_ne _ h
  | ldVxDt x => exact getV_setV_of_ne _ h
  | addReg x y | sub x y | subn x y => exact getV_resultThenFlag_of_ne _ _ h
  | shr x y | shl x y => exact getV_flagThenResult_of_ne _ _ h
  | drw x y n | addI x => exact getV_setFlag_of_ne _ h
  | ldVxK x => exact getV_effectOf_ldVxK h
  | ldVxMem x => exact (getV_fillRegs x k).trans (if_neg h)
  | _ => rfl

end

/-! ### What no instruction reads (10_state.md section 5) -/

section
variable (s : State) (u : Byte) (stack : Vector Word 16)

/-- The record with another sound timer and another stack. -/
def State.withUnread : State := { s with st := u, stack := stack }

theorem State.withUnread_fetchInstr : (s.withUnread u stack).fetchInstr = s.fetchInstr := rfl

theorem State.withUnread_timerTick : (s.withUnread u stack).timerTick = s.timerTick.withUnread (tickDown u) stack := rfl

/-- The sound timer after an instruction that began with `u` there. -/
def State.soundAfter : Instr → Byte
  | .ldStVx x => s.getV x
  | _ => u

/-- The stack after an instruction that began with `stack` there. -/
def State.stackAfter : Instr → Vector Word 16
  | .call _ => stack.setIfInBounds s.sp.val s.returnAddress
  | _ => stack

/-- `stack` holds what the record's stack holds in every live entry; dead ones may differ. -/
def State.LiveAgree : Prop := ∀ k : Fin 16, k.val < s.sp.val → stack[k] = s.stack[k]

/-- What an instruction makes of the record's own sound timer is what it leaves there. -/
theorem State.soundAfter_self (i : Instr) : s.soundAfter s.st i = (s.effectOf i).st := by
  cases i <;> rfl

theorem State.stackAfter_self (i : Instr) : s.stackAfter s.stack i = (s.effectOf i).stack := by
  cases i <;> rfl

theorem State.LiveAgree.refl : s.LiveAgree s.stack := fun _ _ => rfl

variable {s stack}

/-- The entry a return pops is the same in two stacks that agree on the live entries. -/
theorem State.LiveAgree.top (h : s.LiveAgree stack) (hsp : s.sp.val ≠ 0) :
    stack.toList.getD (s.sp.val - 1) 0 = s.stack.toList.getD (s.sp.val - 1) 0 := by
  have hlt : s.sp.val - 1 < 16 := by omega
  rw [List.getD_eq_getElem _ _ (by simpa using hlt), List.getD_eq_getElem _ _ (by simpa using hlt)]
  simpa using h ⟨s.sp.val - 1, hlt⟩ (by simp only; omega)

theorem State.withUnread_errorOf (i : Instr) : (s.withUnread u stack).errorOf i = s.errorOf i := by
  cases i <;> rfl

/-- An instruction that completes makes the same of the other fields, whatever `ST` and the dead entries hold. -/
theorem State.withUnread_effectOf (h : s.LiveAgree stack) {i : Instr} (herr : s.errorOf i = none) :
    (s.withUnread u stack).effectOf i = (s.effectOf i).withUnread (s.soundAfter u i) (s.stackAfter stack i) := by
  cases i with
  | ret =>
    have hsp : s.sp.val ≠ 0 := fun e => nomatch (if_pos e).symm.trans herr
    have htop := h.top hsp
    unfold State.effectOf
    exact congrArg (State.setPc _ ·.toNat) htop
  | _ => rfl

/-- Entries live before and after an instruction agree after it when they did before. -/
theorem State.LiveAgree.effectOf (h : s.LiveAgree stack) (i : Instr) :
    (s.effectOf i).LiveAgree (s.stackAfter stack i) := by
  cases i with
  | ret => exact fun k hk => h k (Nat.lt_of_lt_of_le hk (Nat.sub_le _ _))
  | call nnn =>
    intro k hk
    have hk : k.val < s.sp.val + 1 := Nat.lt_of_lt_of_le hk (Nat.min_le_left _ _)
    have hold : k.val ≠ s.sp.val → stack[k] = s.stack[k] := fun hne => h k (by omega)
    simp only [State.stackAfter, State.effectOf, State.setPc_stack, Fin.getElem_fin, Vector.getElem_setIfInBounds] at hold ⊢
    split
    · rfl
    · next hne => exact hold (Ne.symm hne)
  | _ => exact h

theorem step_withUnread_fault {e : Fault} (h : step s = .fault e) : step (s.withUnread u stack) = .fault e := by
  rw [step_fault, State.withUnread_fetchInstr]
  obtain hf | ⟨i, hf, he⟩ := step_fault.1 h
  · exact .inl hf
  · exact .inr ⟨i, hf, by rw [exec_fault, State.withUnread_errorOf, exec_fault.1 he]⟩

theorem step_withUnread_next {t : State} (hlive : s.LiveAgree stack) (h : step s = .next t) :
    ∃ i, t = (s.effectOf i).timerTick ∧ step (s.withUnread u stack) =
      .next (t.withUnread (tickDown (s.soundAfter u i)) (s.stackAfter stack i)) := by
  obtain ⟨i, v, hf, he, rfl⟩ := step_next.1 h
  obtain ⟨herr, rfl⟩ := exec_next.1 he
  refine ⟨i, rfl, step_next.2 ⟨i, _, hf, exec_next.2 ⟨?_, rfl⟩, ?_⟩⟩
  · rw [State.withUnread_errorOf, herr]
  · rw [State.withUnread_effectOf u hlive herr, State.withUnread_timerTick]

end

theorem State.SameButDeadStack.eq_withUnread {s t : State} (h : s.SameButDeadStack t) : t = s.withUnread s.st t.stack :=
  h.1

theorem State.SameButDeadStack.liveAgree {s t : State} (h : s.SameButDeadStack t) : s.LiveAgree t.stack :=
  h.2

/-! ### The invariant -/

section
variable {s : State} {i : Instr}

theorem State.setPc_pc_le (t : State) (n : Nat) : (t.setPc n).pc.toNat ≤ 0xFFF := by
  rw [State.setPc_pc, toNat_ofNat_mod_4096]
  omega

theorem State.setIdx_idx_le (t : State) (n : Nat) : (t.setIdx n).idx.toNat ≤ 0xFFF := by
  rw [State.setIdx_idx, toNat_ofNat_mod_4096]
  omega

theorem effectOf_ldVxK_pc_le {x : Reg} (h : s.pc.toNat ≤ 0xFFF) : (s.effectOf (.ldVxK x)).pc.toNat ≤ 0xFFF := by
  simp only [State.effectOf]
  cases s.lowestKey with
  | none => exact h
  | some n => exact State.setPc_pc_le s _

theorem effectOf_pc_le (h : s.pc.toNat ≤ 0xFFF) : (s.effectOf i).pc.toNat ≤ 0xFFF := by
  cases i with
  | ldVxK x => exact effectOf_ldVxK_pc_le h
  | _ => exact State.setPc_pc_le s _

theorem effectOf_idx_le (h : s.idx.toNat ≤ 0xFFF) : (s.effectOf i).idx.toNat ≤ 0xFFF := by
  cases i with
  | ldI nnn => exact State.setIdx_idx_le s _
  | addI x | ldF x | ldMemVx x | ldVxMem x => exact State.setIdx_idx_le s _
  | _ => exact h

/-- A store that passes its bounds check fits in memory. -/
theorem State.regBytes_fit {x : Reg} (h : s.atI x.toNat ≤ 0xFFF) :
    s.atI 0 + (s.regBytes x).length ≤ Config.memSize := by
  rw [State.length_regBytes]
  exact Nat.succ_le_succ h

theorem effectOf_mem_wf (h : s.mem.wf) (herr : s.errorOf i = none) : (s.effectOf i).mem.wf := by
  cases i with
  | ldB x => exact Memory.wf_writeBytes h (State.digits_fit x (pastTop_eq_none.1 herr))
  | ldMemVx x => exact Memory.wf_writeBytes h (State.regBytes_fit (pastTop_eq_none.1 herr))
  | _ => exact h

theorem State.returnAddress_le : s.returnAddress.toNat ≤ 0xFFF :=
  State.setPc_pc_le s _

theorem effectOf_live_le (h : ∀ k : Fin 16, k.val < s.sp.val → s.stack[k].toNat ≤ 0xFFF) :
    ∀ k : Fin 16, k.val < (s.effectOf i).sp.val → (s.effectOf i).stack[k].toNat ≤ 0xFFF := by
  cases i with
  | ret => exact fun k hk => h k (Nat.lt_of_lt_of_le hk (Nat.sub_le _ _))
  | call nnn =>
    intro k hk
    have hk : k.val < s.sp.val + 1 := Nat.lt_of_lt_of_le hk (Nat.min_le_left _ _)
    have hold : k.val ≠ s.sp.val → s.stack[k].toNat ≤ 0xFFF := fun hne => h k (by omega)
    simp only [State.effectOf, State.setPc_stack, Fin.getElem_fin, Vector.getElem_setIfInBounds] at hold ⊢
    split
    · exact State.returnAddress_le
    · next hne => exact hold (Ne.symm hne)
  | _ => exact h

theorem effectOf_inv (h : s.Inv) (herr : s.errorOf i = none) : (s.effectOf i).Inv := by
  obtain ⟨hmem, hpc, hidx, hlive⟩ := h
  exact ⟨effectOf_mem_wf hmem herr, effectOf_pc_le hpc, effectOf_idx_le hidx, effectOf_live_le hlive⟩

theorem step_inv {t : State} (h : s.Inv) (hstep : step s = .next t) : t.Inv := by
  obtain ⟨i, u, -, he, rfl⟩ := step_next.1 hstep
  obtain ⟨herr, rfl⟩ := exec_next.1 he
  exact effectOf_inv h herr

end

end Sys2Proof.Machine

namespace Sys2Proof

open Machine

/-- Settles O43: the four parts of the invariant are kept one by one, and the tick touches none of them. -/
theorem invariantKeptByStep : Obligations.InvariantKeptByStep := by
  unfold Obligations.InvariantKeptByStep
  exact fun s t => step_inv

/-- Settles O44: nothing is listed in memory and nothing is on the stack. -/
theorem invariantHoldsAtReset : Obligations.InvariantHoldsAtReset := by
  unfold Obligations.InvariantHoldsAtReset
  exact ⟨State.reset_mem_wf, by decide, by decide, fun _ hk => absurd hk (Nat.not_lt_zero _)⟩

/-- Settles O49: field by field, the instructions of the table are the only ones that write it. -/
theorem onlyListedInstructionsWriteEachField : Obligations.OnlyListedInstructionsWriteEachField := by
  unfold Obligations.OnlyListedInstructionsWriteEachField
  intro i s t h
  obtain ⟨-, rfl⟩ := exec_next.1 h
  exact ⟨effectOf_keypad, effectOf_mem, effectOf_idx, effectOf_stack, effectOf_sp, effectOf_dt, effectOf_st,
    effectOf_picture, effectOf_draws⟩

/-- Settles O50: each shape of register write leaves the registers it does not name. -/
theorem onlyDestinationRegistersChange : Obligations.OnlyDestinationRegistersChange := by
  unfold Obligations.OnlyDestinationRegistersChange
  intro i s t k h hk
  obtain ⟨-, rfl⟩ := exec_next.1 h
  exact getV_effectOf hk

/-- Settles O52: the same stack agrees with itself, so only `ST` differs after the Step. -/
theorem soundTimerIsUnread : Obligations.SoundTimerIsUnread := by
  unfold Obligations.SoundTimerIsUnread
  refine fun s u => ⟨fun e h => step_withUnread_fault u h, fun t h => ?_⟩
  obtain ⟨i, rfl, hstep⟩ := step_withUnread_next u (State.LiveAgree.refl s) h
  rw [State.stackAfter_self] at hstep
  exact ⟨_, hstep⟩

/-- Settles O53: a return pops a live entry and a call writes a dead one, and nothing else looks at the stack. -/
theorem deadStackEntriesAreUnread : Obligations.DeadStackEntriesAreUnread := by
  unfold Obligations.DeadStackEntriesAreUnread
  intro s s' h
  rw [h.eq_withUnread]
  refine ⟨fun e he => step_withUnread_fault s.st he, fun t ht => ?_⟩
  obtain ⟨i, rfl, hstep⟩ := step_withUnread_next s.st h.liveAgree ht
  rw [State.soundAfter_self] at hstep
  exact ⟨_, hstep, rfl, h.liveAgree.effectOf i⟩

/-- Settles O54: only a call writes an entry, and that one was dead. -/
theorem liveStackEntriesSurvive : Obligations.LiveStackEntriesSurvive := by
  unfold Obligations.LiveStackEntriesSurvive
  intro s t k h hbefore hafter
  obtain ⟨i, u, -, he, rfl⟩ := step_next.1 h
  obtain ⟨-, rfl⟩ := exec_next.1 he
  by_cases hcall : ∀ nnn, i ≠ .call nnn
  · rw [State.timerTick_stack, effectOf_stack hcall]
  · push Not at hcall
    obtain ⟨nnn, rfl⟩ := hcall
    exact Vector.getElem_setIfInBounds_ne _ (Nat.ne_of_gt hbefore)

end Sys2Proof

/-! Canonical memory (20_memory.md section 1) and the host's operations (50_host_interface.md). A byte is listed exactly when
it differs from what an unlisted address reads as, so a canonical memory is determined by its reads. -/

namespace Sys2Proof.Machine

/-! ### Memory is its bytes -/

/-- An entry is listed exactly when it is the byte read there and not the one an unlisted address reads as. -/
theorem Memory.mem_iff_read {m : Memory} (h : m.wf) (a : Nat) (u : Byte) :
    (a, u) ∈ m ↔ m.read a = u ∧ u ≠ Memory.unlisted a := by
  induction m with
  | nil => exact iff_of_false List.not_mem_nil fun ⟨hread, hu⟩ => hu hread.symm
  | cons d m ih =>
    obtain ⟨b, c⟩ := d
    obtain ⟨hb, -, hc, hm⟩ := Memory.wf_cons.1 h
    rw [List.mem_cons, Prod.mk.injEq, Memory.read]
    by_cases hab : a = b
    · subst hab
      have hout : (a, u) ∉ m := fun hmem => Nat.lt_irrefl a (hb _ hmem)
      simp only [true_and, hout, or_false, if_true]
      exact ⟨fun e => ⟨e.symm, e ▸ hc⟩, fun e => e.1.symm⟩
    · simp only [hab, false_and, false_or, if_false]
      exact ih hm

theorem Memory.ext_read {m n : Memory} (hm : m.wf) (hn : n.wf) (h : ∀ a, m.read a = n.read a) : m = n := by
  have hirrefl : Std.Irrefl (fun c d : Host.Cell => c.1 < d.1) := ⟨fun _ => Nat.lt_irrefl _⟩
  have hantisymm : Std.Antisymm (fun c d : Host.Cell => c.1 < d.1) := ⟨fun _ _ hcd hdc => absurd hcd (Nat.lt_asymm hdc)⟩
  refine hm.1.eq_of_mem_iff hn.1 fun ⟨a, u⟩ => ?_
  rw [Memory.mem_iff_read hm, Memory.mem_iff_read hn, h]

/-! ### Init and Reset -/

theorem length_font : Config.font.length = 80 := rfl

theorem Memory.unlisted_past_font {a : Nat} (h : 0x50 ≤ a) : Memory.unlisted a = 0 :=
  List.getD_eq_default _ _ h

section
variable (font : Vector Byte 80)

theorem font_fits : 0 + font.toList.length ≤ Config.memSize := by
  rw [Vector.length_toList]
  decide

theorem State.initWith_mem_wf : (State.initWith font).mem.wf :=
  Memory.wf_writeBytes State.reset_mem_wf (font_fits font)

theorem State.read_initWith (a : Nat) :
    (State.initWith font).mem.read a = if a < 80 then font.toList.getD a 0 else Memory.unlisted a := by
  refine (Memory.read_writeBytes State.reset_mem_wf (font_fits font) a).trans ?_
  rw [Vector.length_toList]
  simp [State.reset, Memory.read]

variable {font}

theorem State.initWith_default (h : font.toList = Config.font) : State.initWith font = State.reset := by
  have hmem : (State.initWith font).mem = State.reset.mem := by
    refine Memory.ext_read (State.initWith_mem_wf font) State.reset_mem_wf fun a => ?_
    rw [State.read_initWith, h]
    exact ite_self _
  exact congrArg State.reset.setMem hmem

end

/-! ### Load -/

/-- An image Load accepts fits between `0x200` and the top of memory. -/
theorem image_fits {bytes : List Byte} (h : bytes.length ≤ 3584) : Config.progBase + bytes.length ≤ Config.memSize :=
  Nat.add_le_add_left h 0x200

theorem State.load_ok {s : State} {bytes : List Byte} (h : bytes.length ≤ 3584) :
    s.load bytes = .next (s.setMem (s.mem.writeBytes Config.progBase bytes)) :=
  if_neg (Nat.not_lt.2 h)

theorem State.load_too_large {s : State} {bytes : List Byte} (h : 3584 < bytes.length) :
    s.load bytes = .fault (.programTooLarge bytes.length) :=
  if_pos h

theorem State.loadAnswer_ok {s : State} {bytes : List Byte} (h : bytes.length ≤ 3584) :
    s.loadAnswer bytes = (s.setMem (s.mem.writeBytes Config.progBase bytes), .ok) := by
  rw [State.loadAnswer, State.load_ok h]

theorem State.loadAnswer_too_large {s : State} {bytes : List Byte} (h : 3584 < bytes.length) :
    s.loadAnswer bytes = (s, .error (.programTooLarge bytes.length)) := by
  rw [State.loadAnswer, State.load_too_large h]

/-! ### The invariant under the host's operations -/

theorem State.freshRecord_inv (s : State) (font : Vector Byte 80) : (s.freshRecord font).Inv :=
  ⟨State.initWith_mem_wf font, (by decide : (0x200 : Word).toNat ≤ 0xFFF), (by decide : (0 : Word).toNat ≤ 0xFFF),
    fun _ hk => absurd hk (Nat.not_lt_zero _)⟩

theorem State.loadAnswer_inv {s : State} (h : s.Inv) (bytes : List Byte) : (s.loadAnswer bytes).1.Inv := by
  by_cases hlen : bytes.length ≤ 3584
  · rw [State.loadAnswer_ok hlen]
    obtain ⟨hmem, hrest⟩ := h
    exact ⟨Memory.wf_writeBytes hmem (image_fits hlen), hrest⟩
  · rw [State.loadAnswer_too_large (Nat.lt_of_not_le hlen)]
    exact h

theorem stepReport_inv {s : State} (h : s.Inv) : (stepReport s).state.Inv := by
  obtain ⟨e, he⟩ | ⟨t, ht⟩ := step_cases s
  · rw [stepReport_of_fault he]
    exact h
  · obtain ⟨i, u, hf, he, rfl⟩ := step_next.1 ht
    rw [stepReport_of_next hf he]
    exact step_inv h ht

theorem HostOp.apply_inv (font : Vector Byte 80) (op : HostOp) {s : State} (h : s.Inv) : (op.apply font s).1.Inv := by
  cases op with
  | init | reset => exact s.freshRecord_inv font
  | load bytes => exact State.loadAnswer_inv h bytes
  | step => exact stepReport_inv h
  | _ => exact h

/-! ### The bits the host reads -/

theorem State.getD_framebufferBits (s : State) {px py : Nat} (hx : px < 64) (hy : py < 32) :
    s.framebufferBits.getD (py * 64 + px) false = s.fb.pixel px py := by
  have hlt : py * 64 + px < 64 * 32 := by omega
  have hmod : (py * 64 + px) % 64 = px := by omega
  have hdiv : (py * 64 + px) / 64 = py := by omega
  simp [State.framebufferBits, Config.fbWidth, Config.fbHeight, List.getD_eq_getElem?_getD, hlt, hmod, hdiv]

end Sys2Proof.Machine

namespace Sys2Proof

open Machine

/-- Settles O45: Init, Reset and Load write memory within its bounds, Step keeps the invariant (O43), and the others write
none of its fields. -/
theorem invariantKeptByEveryHostOperation : Obligations.InvariantKeptByEveryHostOperation := by
  unfold Obligations.InvariantKeptByEveryHostOperation
  exact fun font op s => HostOp.apply_inv font op

/-- Settles O60: two canonical memories with the same bytes list the same entries in the same order. -/
theorem canonicalMemoriesAreEqualWhenBytesAre : Obligations.CanonicalMemoriesAreEqualWhenBytesAre := by
  unfold Obligations.CanonicalMemoriesAreEqualWhenBytesAre
  exact fun m n => Memory.ext_read

/-- Settles O47: the 80 bytes are one stored run, and storing the default font lists nothing. -/
theorem initPlacesAnyFont : Obligations.InitPlacesAnyFont := by
  unfold Obligations.InitPlacesAnyFont
  refine fun font s => ⟨s.freshRecord font, rfl, rfl, fun k => ?_, fun a ha => ?_, rfl, fun h => ?_⟩
  · refine (State.read_initWith font k.val).trans ?_
    rw [if_pos k.isLt, List.getD_eq_getElem _ _ (by simp)]
    exact Vector.getElem_toList _
  · refine (State.read_initWith font a).trans ?_
    rw [if_neg (Nat.not_lt.2 ha), Memory.unlisted_past_font ha]
  · rw [State.freshRecord, State.initWith_default h]

/-- Settles O46: the fields are constants, and an address past the font reads as zero. -/
theorem resetRecordFieldByField : Obligations.ResetRecordFieldByField := by
  unfold Obligations.ResetRecordFieldByField
  refine ⟨rfl, rfl, rfl, rfl, by decide, rfl, length_font, fun a => ?_, by decide, fun px py => ?_, rfl, by decide⟩
  · have hread : State.reset.mem.read a = Memory.unlisted a := rfl
    rw [hread]
    split
    · rfl
    · next h => exact Memory.unlisted_past_font (Nat.le_of_not_lt h)
  · exact Framebuffer.pixel_clear px py

/-- Settles O48: one fixed record, whose fetch and Step compute. -/
theorem unloadedMachineRaisesUnknownOpcode : Obligations.UnloadedMachineRaisesUnknownOpcode := by
  unfold Obligations.UnloadedMachineRaisesUnknownOpcode
  obtain ⟨hfetch, hdecode⟩ : State.reset.fetch = .ok 0x0000 ∧ decode 0x0000 = none := by decide
  exact ⟨hfetch, step_fault.2 (.inl (State.fetchInstr_of_unknown hfetch hdecode))⟩

/-- Settles O58: an accepted image is one stored run at `0x200`. -/
theorem loadPlacesTheImage : Obligations.LoadPlacesTheImage := by
  unfold Obligations.LoadPlacesTheImage
  refine fun font bytes s => ⟨fun hm hlen => ?_, fun hlen => ⟨State.load_too_large hlen, State.loadAnswer_too_large hlen⟩⟩
  refine ⟨_, State.load_ok hlen, State.loadAnswer_ok hlen, fun k hk => ?_, memOutside_of_writeBytes hm (image_fits hlen) rfl,
    rfl⟩
  rw [List.getD_eq_getElem _ _ hk]
  exact Memory.read_writeBytes_add hm (image_fits hlen) hk

/-- Settles O59: each operation is one field update or a read. -/
theorem hostOperationsTouchOnlyTheirField : Obligations.HostOperationsTouchOnlyTheirField := by
  unfold Obligations.HostOperationsTouchOnlyTheirField
  refine fun font s => ⟨⟨s.timerTick, rfl, toNat_tickDown s.dt, toNat_tickDown s.st, rfl⟩, rfl, fun k p => ?_,
    fun keys => rfl, ⟨s.framebufferBits, rfl, by simp [State.framebufferBits, Config.fbWidth, Config.fbHeight],
      fun px py => s.getD_framebufferBits⟩, rfl, rfl⟩
  refine ⟨s.keypadWrite k p, rfl, Vector.getElem_set_self _, fun j hj => ?_, rfl⟩
  exact Vector.getElem_set_ne k.isLt j.isLt fun e => hj (Fin.ext e.symm)

end Sys2Proof

/-! The other instructions of control transfer, registers, index, keypad and timers (41_flow.md, 42_alu.md,
43_index_memory.md, 45_keypad_timers.md): calls, shifts, the random byte, the flag as destination, block stores and loads,
key skips, and the delay timer over several Steps. The words of each format come from `decode_encode`. -/

namespace Sys2Proof.Machine

/-! ### The words -/

theorem encodedAs_call (nnn : Addr) : EncodedAs (.call nnn) (0x2000 + nnn.toNat) :=
  encodedAs_A (op := 0x2) rfl (decode_encode (.call nnn))

theorem encodedAs_jpV0 (nnn : Addr) : EncodedAs (.jpV0 nnn) (0xB000 + nnn.toNat) :=
  encodedAs_A (op := 0xB) rfl (decode_encode (.jpV0 nnn))

theorem encodedAs_shr (x y : Reg) : EncodedAs (.shr x y) (0x8006 + 0x100 * x.toNat + 0x10 * y.toNat) :=
  encodedAs_XY (op := 0x8) (n := 0x6) rfl (decode_encode (.shr x y))

theorem encodedAs_shl (x y : Reg) : EncodedAs (.shl x y) (0x800E + 0x100 * x.toNat + 0x10 * y.toNat) :=
  encodedAs_XY (op := 0x8) (n := 0xE) rfl (decode_encode (.shl x y))

theorem encodedAs_rnd (x : Reg) (nn : Byte) : EncodedAs (.rnd x nn) (0xC000 + 0x100 * x.toNat + nn.toNat) :=
  encodedAs_XI (op := 0xC) rfl (decode_encode (.rnd x nn))

/-- A word of format `XF`, with the low byte in the constant. -/
theorem encodedAs_XF {i : Instr} {op : BitVec 4} {x : Reg} {nn : Byte} (hw : encode i = op ++ x ++ nn) :
    EncodedAs i (0x1000 * op.toNat + nn.toNat + 0x100 * x.toNat) := by
  rw [Nat.add_right_comm]
  exact encodedAs_XI hw (hw ▸ decode_encode i)

theorem encodedAs_skp (x : Reg) : EncodedAs (.skp x) (0xE09E + 0x100 * x.toNat) :=
  encodedAs_XF (op := 0xE) (nn := 0x9E) rfl

theorem encodedAs_sknp (x : Reg) : EncodedAs (.sknp x) (0xE0A1 + 0x100 * x.toNat) :=
  encodedAs_XF (op := 0xE) (nn := 0xA1) rfl

theorem encodedAs_ldVxK (x : Reg) : EncodedAs (.ldVxK x) (0xF00A + 0x100 * x.toNat) :=
  encodedAs_XF (op := 0xF) (nn := 0x0A) rfl

theorem encodedAs_addI (x : Reg) : EncodedAs (.addI x) (0xF01E + 0x100 * x.toNat) :=
  encodedAs_XF (op := 0xF) (nn := 0x1E) rfl

theorem encodedAs_ldF (x : Reg) : EncodedAs (.ldF x) (0xF029 + 0x100 * x.toNat) :=
  encodedAs_XF (op := 0xF) (nn := 0x29) rfl

theorem encodedAs_ldMemVx (x : Reg) : EncodedAs (.ldMemVx x) (0xF055 + 0x100 * x.toNat) :=
  encodedAs_XF (op := 0xF) (nn := 0x55) rfl

theorem encodedAs_ldVxMem (x : Reg) : EncodedAs (.ldVxMem x) (0xF065 + 0x100 * x.toNat) :=
  encodedAs_XF (op := 0xF) (nn := 0x65) rfl

/-! ### Calls and returns -/

theorem State.toNat_returnAddress (s : State) : s.returnAddress.toNat = (s.pc.toNat + 2) % 4096 :=
  toNat_ofNat_mod_4096 _

theorem exec_call_next {s t : State} {nnn : Addr} :
    exec (.call nnn) s = .next t ↔ s.sp.val ≠ 16 ∧ t = s.effectOf (.call nnn) := by
  rw [exec_next]
  simp [State.errorOf]

theorem effectOf_call_sp {s : State} (nnn : Addr) (h : s.sp.val ≠ 16) :
    (s.effectOf (.call nnn)).sp.val = s.sp.val + 1 :=
  Nat.min_eq_left (show s.sp.val + 1 ≤ 16 by omega)

theorem effectOf_call_stack (s : State) (nnn : Addr) (k : Fin 16) :
    (s.effectOf (.call nnn)).stack[k] = if s.sp.val = k.val then s.returnAddress else s.stack[k] := by
  simp only [State.effectOf, State.setPc_stack, Fin.getElem_fin, Vector.getElem_setIfInBounds]

/-! ### Shifts -/

theorem onlyRegs_flagThenResult (s : State) (x : Reg) (r : Byte) (c : Bool) :
    Frame.OnlyRegs [x, 0xF] s (s.flagThenResult x r c) :=
  ⟨fun _ hk => getV_flagThenResult_of_ne r c (by simpa using hk), fun _ => rfl, rfl, ⟨rfl, rfl⟩, ⟨rfl, rfl⟩,
    ⟨rfl, rfl⟩, rfl, rfl⟩

theorem result_of_exec_flagThenResult {i : Instr} {s : State} {x : Reg} {r : Byte} {c : Bool}
    (h : exec i s = .next (s.flagThenResult x r c)) :
    ∃ t, exec i s = .next t ∧ t.getV x = r ∧ (x ≠ 0xF → t.getV 0xF = (if c then 1 else 0)) ∧
      PcSequential s t ∧ Frame.OnlyRegs [x, 0xF] s t := by
  refine ⟨_, h, ?_, fun hx => ?_, pcSequential_advance rfl, onlyRegs_flagThenResult s x r c⟩
  · rw [State.getV_flagThenResult, if_pos rfl]
  · rw [State.getV_flagThenResult, if_neg (Ne.symm hx), if_pos rfl]

theorem toNat_ite_lowBit (a : Byte) : (if lowBit a then 1 else 0 : Byte).toNat = a.toNat % 2 := by
  rw [lowBit_eq]
  rcases Nat.mod_two_eq_zero_or_one a.toNat with h | h <;> simp [h]

theorem toNat_ite_highBit (a : Byte) : (if highBit a then 1 else 0 : Byte).toNat = a.toNat / 128 := by
  have ha := a.isLt
  rw [highBit_eq]
  by_cases h : 128 ≤ a.toNat
  · have hdiv : a.toNat / 128 = 1 := by omega
    simp [h, hdiv]
  · have hdiv : a.toNat / 128 = 0 := by omega
    simp [h, hdiv]

/-! ### `VF` as the destination -/

theorem leavesVF_of_setV {i : Instr} {s : State} {u : Byte} {n : Nat} (h : exec i s = .next (s.setV 0xF u).advance)
    (hn : u.toNat = n) : LeavesVF i s n := by
  obtain ⟨t, ht, hv, -, hregs, -⟩ := result_of_exec_setV h
  exact ⟨t, ht, by rw [hv, hn], hregs⟩

theorem leavesVF_of_resultThenFlag {i : Instr} {s : State} {r : Byte} {c : Bool} {n : Nat}
    (h : exec i s = .next (s.resultThenFlag 0xF r c)) (hn : (if c then 1 else 0 : Byte).toNat = n) : LeavesVF i s n := by
  obtain ⟨t, ht, -, hflag, -, hregs, -⟩ := result_of_exec_resultThenFlag h
  exact ⟨t, ht, by rw [hflag, hn], fun k hk => hregs k (by simpa using hk)⟩

theorem leavesVF_of_flagThenResult {i : Instr} {s : State} {r : Byte} {c : Bool} {n : Nat}
    (h : exec i s = .next (s.flagThenResult 0xF r c)) (hn : r.toNat = n) : LeavesVF i s n := by
  obtain ⟨t, ht, hv, -, -, hregs, -⟩ := result_of_exec_flagThenResult h
  exact ⟨t, ht, by rw [hv, hn], fun k hk => hregs k (by simpa using hk)⟩

theorem toNat_ite_carry (a b : Byte) :
    (if carry a b then 1 else 0 : Byte).toNat = if 255 < a.toNat + b.toNat then 1 else 0 := by
  simp only [carry_iff]
  split <;> rfl

theorem toNat_ite_noBorrow (a b : Byte) :
    (if noBorrow a b then 1 else 0 : Byte).toNat = if a.toNat < b.toNat then 0 else 1 := by
  rw [ite_noBorrow]
  split <;> rfl

/-! ### Block stores and loads -/

section
variable {s : State} {x : Reg}

theorem exec_ldMemVx_next {t : State} : exec (.ldMemVx x) s = .next t ↔ s.atI x.toNat ≤ 0xFFF ∧ t = s.storeRegs x :=
  checkTop_next

theorem exec_ldVxMem_next {t : State} : exec (.ldVxMem x) s = .next t ↔ s.atI x.toNat ≤ 0xFFF ∧ t = s.fillRegs x :=
  checkTop_next

theorem exec_ldMemVx_fault (h : 0xFFF < s.atI x.toNat) : exec (.ldMemVx x) s = .fault (.outOfBounds (s.atI x.toNat)) :=
  checkTop_fault.2 ⟨h, rfl⟩

theorem exec_ldVxMem_fault (h : 0xFFF < s.atI x.toNat) : exec (.ldVxMem x) s = .fault (.outOfBounds (s.atI x.toNat)) :=
  checkTop_fault.2 ⟨h, rfl⟩

theorem State.read_storeRegs (hm : s.mem.wf) (h : s.atI x.toNat ≤ 0xFFF) {k : Reg} (hk : k.toNat ≤ x.toNat) :
    (s.storeRegs x).mem.read (s.atI k.toNat) = s.getV k := by
  have hlt : k.toNat < (s.regBytes x).length := by
    rw [State.length_regBytes]
    omega
  have hread : (s.storeRegs x).mem.read (s.atI k.toNat) = (s.regBytes x)[k.toNat] :=
    Memory.read_writeBytes_add hm (State.regBytes_fit h) hlt
  rw [hread, ← State.getD_regBytes s x k hk, List.getD_eq_getElem _ _ hlt]

theorem State.memOutside_storeRegs (hm : s.mem.wf) (h : s.atI x.toNat ≤ 0xFFF) :
    Frame.MemOutside (s.atI 0) (x.toNat + 1) s (s.storeRegs x) := by
  rw [← State.length_regBytes s x]
  exact memOutside_of_writeBytes hm (State.regBytes_fit h) rfl

theorem State.toNat_idx_storeRegs : (s.storeRegs x).idx.toNat = (s.idx.toNat + x.toNat + 1) % 4096 :=
  toNat_ofNat_mod_4096 _

theorem State.toNat_idx_fillRegs : (s.fillRegs x).idx.toNat = (s.idx.toNat + x.toNat + 1) % 4096 :=
  toNat_ofNat_mod_4096 _

end

/-! ### Key skips and the wait for a key -/

theorem skipsWhen_of_skipOnKey {i : Instr} {s : State} {x : Reg} {down : Bool} (h : exec i s = s.skipOnKey x down)
    {k : Fin 16} (hk : k.val = (s.getV x).toNat) : SkipsWhen i s (s.keypad[k] = down) := by
  have hlt : (s.getV x).toNat < 16 := hk ▸ k.isLt
  refine skipsWhen_of_exec (h.trans (State.skipOnKey_next.2 ⟨hlt, rfl⟩)) ?_
  rw [← hk, State.keyDown_eq, beq_iff_eq]

theorem State.skipOnKey_fault {s : State} {x : Reg} (h : 15 < (s.getV x).toNat) (down : Bool) :
    s.skipOnKey x down = .fault (.outOfBounds (s.getV x).toNat) :=
  if_pos h

theorem exec_ldVxK_of_key {s : State} {k : Fin 16} (hk : s.keypad[k] = true)
    (hlow : ∀ j : Fin 16, j < k → s.keypad[j] = false) (x : Reg) :
    exec (.ldVxK x) s = .next (s.setV x (BitVec.ofNat 8 k.val)).advance := by
  simp only [exec, execLdVxK, (s.lowestKey_eq_some k).2 ⟨hk, hlow⟩]

/-! ### The delay timer over several Steps -/

theorem step_dt {s t : State} (h : step s = .next t) (hfetch : ∀ x, s.fetchInstr ≠ .ok (.ldDtVx x)) :
    t.dt.toNat = s.dt.toNat - 1 := by
  obtain ⟨i, u, hf, he, rfl⟩ := step_next.1 h
  obtain ⟨-, rfl⟩ := exec_next.1 he
  have hne : ∀ x, i ≠ .ldDtVx x := fun x e => hfetch x (e ▸ hf)
  rw [State.timerTick_dt, toNat_tickDown, effectOf_dt hne]

theorem dt_of_runsWithoutSettingDelay {n : Nat} {s t : State} (h : RunsWithoutSettingDelay n s t) :
    t.dt.toNat = s.dt.toNat - n := by
  induction n generalizing s with
  | zero => exact congrArg (·.dt.toNat) h
  | succ n ih =>
    obtain ⟨u, hfetch, hstep, hrun⟩ := h
    rw [ih hrun, step_dt hstep hfetch]
    omega

/-! ### The two bytes of a fetched word -/

theorem toNat_wordOfBytes_div (hi lo : Byte) : (wordOfBytes hi lo).toNat / 256 = hi.toNat := by
  have hlo := lo.isLt
  rw [toNat_wordOfBytes]
  omega

theorem toNat_wordOfBytes_mod (hi lo : Byte) : (wordOfBytes hi lo).toNat % 256 = lo.toNat := by
  have hlo := lo.isLt
  rw [toNat_wordOfBytes]
  omega

end Sys2Proof.Machine

namespace Sys2Proof

open Machine

/-- Settles O27: with room, the return address goes into entry `sp` and no other. -/
theorem callPushesReturnAddress : Obligations.CallPushesReturnAddress := by
  unfold Obligations.CallPushesReturnAddress
  refine fun nnn s => ⟨encodedAs_call nnn, fun hsp => ?_, fun hsp => exec_fault.2 (if_pos hsp)⟩
  have hne : s.sp.val ≠ 16 := Nat.ne_of_lt hsp
  refine ⟨_, exec_call_next.2 ⟨hne, rfl⟩, ?_, effectOf_call_sp nnn hne, fun k hk => ?_, fun k hk => ?_,
    fun _ _ => rfl, fun _ => rfl, rfl, ⟨rfl, rfl⟩, ⟨rfl, rfl⟩, rfl, rfl⟩
  · exact (toNat_ofNat_mod_4096 _).trans (Nat.mod_eq_of_lt nnn.isLt)
  · rw [effectOf_call_stack, if_pos hk.symm, State.toNat_returnAddress]
  · rw [effectOf_call_stack, if_neg (Ne.symm hk)]

/-- Settles O55: the entry the return pops is the one the call pushed. -/
theorem returnUndoesCall : Obligations.ReturnUndoesCall := by
  unfold Obligations.ReturnUndoesCall
  intro nnn s t u hcall hsp hentry
  obtain ⟨hne, rfl⟩ := exec_call_next.1 hcall
  obtain ⟨k, hk⟩ : ∃ k : Fin 16, k.val = s.sp.val := ⟨⟨s.sp.val, by omega⟩, rfl⟩
  have htop : u.stack[k] = s.returnAddress := by
    rw [hentry k hk, effectOf_call_stack, if_pos hk.symm]
  have hlast : k.val + 1 = u.sp.val := by
    rw [hsp, effectOf_call_sp nnn hne, hk]
  refine ⟨_, State.popAndGo_top hlast, ?_, Fin.ext hk⟩
  rw [State.setPc_pc, toNat_ofNat_mod_4096, htop, State.toNat_returnAddress, Nat.mod_mod]

/-- Settles O26: one `setPc` of the sum. -/
theorem jumpWithOffsetAddsV0 : Obligations.JumpWithOffsetAddsV0 := by
  unfold Obligations.JumpWithOffsetAddsV0
  exact fun nnn s => ⟨encodedAs_jpV0 nnn, _, rfl, toNat_ofNat_mod_4096 _, onlyRegs_setPc s _⟩

/-- Settles O22: the flag is written before the result, so the result stays in `VX` for every `X`. -/
theorem shiftsWriteBitOut : Obligations.ShiftsWriteBitOut := by
  unfold Obligations.ShiftsWriteBitOut
  intro x y s
  constructor
  · obtain ⟨t, ht, hx, hflag, hpc, hframe⟩ := result_of_exec_flagThenResult (show exec (.shr x y) s =
      .next (s.flagThenResult x (shrByte (s.getV x)) (lowBit (s.getV x))) from rfl)
    exact ⟨encodedAs_shr x y, fun _ => rfl, t, ht, hx ▸ toNat_shrByte _, fun hne => hflag hne ▸ toNat_ite_lowBit _, hpc,
      hframe⟩
  · obtain ⟨t, ht, hx, hflag, hpc, hframe⟩ := result_of_exec_flagThenResult (show exec (.shl x y) s =
      .next (s.flagThenResult x (shlByte (s.getV x)) (highBit (s.getV x))) from rfl)
    exact ⟨encodedAs_shl x y, fun _ => rfl, t, ht, hx ▸ toNat_shlByte _, fun hne => hflag hne ▸ toNat_ite_highBit _, hpc,
      hframe⟩

/-- Settles O24: the result is an AND with the mask, and an AND with the mask again changes nothing. -/
theorem randomByteIsMasked : Obligations.RandomByteIsMasked := by
  unfold Obligations.RandomByteIsMasked
  intro x nn s
  have hx : (State.advance { s.setV x (Config.rnd s.draws &&& nn) with draws := s.draws + 1 }).getV x =
      Config.rnd s.draws &&& nn := State.getV_setV_self s x _
  refine ⟨encodedAs_rnd x nn, _, rfl, hx, ?_, rfl, pcSequential_advance rfl,
    fun k hk => getV_setV_of_ne _ (List.ne_of_not_mem_cons hk), fun _ => rfl, rfl, ⟨rfl, rfl⟩, ⟨rfl, rfl⟩, ⟨rfl, rfl⟩, rfl⟩
  rw [hx, BitVec.and_assoc, BitVec.and_self]

/-- Settles O23: of the three ways to write `VF`, each leaves what it writes last. -/
theorem flagRegisterAsDestination : Obligations.FlagRegisterAsDestination := by
  unfold Obligations.FlagRegisterAsDestination
  rintro y nn s f b rfl rfl
  exact ⟨leavesVF_of_resultThenFlag rfl (toNat_ite_carry _ _), leavesVF_of_resultThenFlag rfl (toNat_ite_noBorrow _ _),
    leavesVF_of_resultThenFlag rfl (toNat_ite_noBorrow _ _), leavesVF_of_flagThenResult rfl (toNat_shrByte _),
    leavesVF_of_flagThenResult rfl (toNat_shlByte _), leavesVF_of_setV rfl rfl,
    leavesVF_of_setV rfl (BitVec.toNat_or ..), leavesVF_of_setV rfl (BitVec.toNat_and ..),
    leavesVF_of_setV rfl (BitVec.toNat_xor ..), leavesVF_of_setV rfl rfl, leavesVF_of_setV rfl (toNat_addByte _ _),
    _, rfl, (congrArg BitVec.toNat (State.getV_setV_self s 0xF _)).trans (BitVec.toNat_and ..),
    fun _ hk => getV_setV_of_ne _ (List.ne_of_not_mem_cons hk)⟩

/-- Settles O31: flag and sum are both taken from the old `VX`. -/
theorem addToIndexWritesOverflow : Obligations.AddToIndexWritesOverflow := by
  unfold Obligations.AddToIndexWritesOverflow
  refine fun x s => ⟨encodedAs_addI x, _, rfl, toNat_ofNat_mod_4096 _, ?_, pcSequential_advance rfl,
    fun k hk => getV_setFlag_of_ne _ (List.ne_of_not_mem_cons hk), fun _ => rfl, ⟨rfl, rfl⟩, ⟨rfl, rfl⟩, ⟨rfl, rfl⟩,
    rfl, rfl⟩
  rw [State.getV_advance, State.getV_setIdx, State.getV_setFlag, if_pos rfl]
  simp only [idxOverflow_iff]

/-- Settles O32: five times a byte is below 4096. -/
theorem glyphAddressIsFiveTimesDigit : Obligations.GlyphAddressIsFiveTimesDigit := by
  unfold Obligations.GlyphAddressIsFiveTimesDigit
  refine fun x s => ⟨encodedAs_ldF x, _, rfl, ?_, pcSequential_advance rfl, fun _ _ => rfl, fun _ => rfl, ⟨rfl, rfl⟩,
    ⟨rfl, rfl⟩, ⟨rfl, rfl⟩, rfl, rfl⟩
  have hbyte := (s.getV x).isLt
  rw [State.advance_idx, State.setIdx_idx, toNat_ofNat_mod_4096, Config.glyphBytes]
  omega

/-- Settles O34: one run of stored bytes, `V[k]` being byte `k` of it. -/
theorem registersAreStored : Obligations.RegistersAreStored := by
  unfold Obligations.RegistersAreStored
  exact fun x s => ⟨encodedAs_ldMemVx x, fun hm h => ⟨_, exec_ldMemVx_next.2 ⟨h, rfl⟩, fun k => State.read_storeRegs hm h,
    State.memOutside_storeRegs hm h, State.toNat_idx_storeRegs, pcSequential_advance rfl, fun _ _ => rfl, ⟨rfl, rfl⟩,
    ⟨rfl, rfl⟩, ⟨rfl, rfl⟩, rfl, rfl⟩, exec_ldMemVx_fault⟩

/-- Settles O35: a register up to `X` is loaded and one above is left. -/
theorem registersAreLoaded : Obligations.RegistersAreLoaded := by
  unfold Obligations.RegistersAreLoaded
  exact fun x s => ⟨encodedAs_ldVxMem x, fun h => ⟨_, exec_ldVxMem_next.2 ⟨h, rfl⟩,
    fun k hk => (getV_fillRegs x k).trans (if_pos hk), fun k hk => (getV_fillRegs x k).trans (if_neg (Nat.not_le.2 hk)),
    State.toNat_idx_fillRegs, pcSequential_advance rfl, fun _ => rfl, ⟨rfl, rfl⟩, ⟨rfl, rfl⟩, ⟨rfl, rfl⟩, rfl, rfl⟩,
    exec_ldVxMem_fault⟩

/-- Settles O36: the load reads, register by register, the bytes the store wrote. -/
theorem storeThenLoadRestoresRegisters : Obligations.StoreThenLoadRestoresRegisters := by
  unfold Obligations.StoreThenLoadRestoresRegisters
  intro x s t u hm hstore hkept hidx
  obtain ⟨h, rfl⟩ := exec_ldMemVx_next.1 hstore
  have hat : ∀ k, u.atI k = s.atI k := fun k => by rw [State.atI, State.atI, hidx]
  refine ⟨_, exec_ldVxMem_next.2 ⟨by rw [hat]; exact h, rfl⟩, fun k hk => ?_, ?_, ?_⟩
  · rw [getV_fillRegs, if_pos hk, hat, hkept k hk, State.read_storeRegs hm h hk]
  · exact BitVec.eq_of_toNat_eq (by rw [State.toNat_idx_fillRegs, State.toNat_idx_storeRegs, hidx])
  · rw [State.toNat_idx_fillRegs, hidx]

/-- Settles O40: a value up to 15 names a key, and the skip is on that key. -/
theorem keySkipsFollowTheKeypad : Obligations.KeySkipsFollowTheKeypad := by
  unfold Obligations.KeySkipsFollowTheKeypad
  exact fun x s => ⟨encodedAs_skp x, encodedAs_sknp x,
    fun k hk => ⟨skipsWhen_of_skipOnKey rfl hk, skipsWhen_of_skipOnKey rfl hk⟩,
    fun h => ⟨State.skipOnKey_fault h true, State.skipOnKey_fault h false⟩⟩

/-- Settles O41: the lowest pressed key decides which of the two things `FX0A` does. -/
theorem waitForKeyTakesLowestKey : Obligations.WaitForKeyTakesLowestKey := by
  unfold Obligations.WaitForKeyTakesLowestKey
  refine fun x s => ⟨encodedAs_ldVxK x, fun h => exec_ldVxK_of_noKey h x, fun k hk hlow => ?_⟩
  obtain ⟨t, ht, hx, hpc, hframe⟩ := result_of_exec_setV (exec_ldVxK_of_key hk hlow x)
  have hbyte : (BitVec.ofNat 8 k.val).toNat = k.val :=
    (BitVec.toNat_ofNat _ _).trans (Nat.mod_eq_of_lt (Nat.lt_trans k.isLt (by decide)))
  exact ⟨t, ht, hx ▸ hbyte, hpc, hframe⟩

/-- Settles O56: every Step takes one from `DT`, and the Step of `FX15` takes the first. -/
theorem delayTimerCountsSteps : Obligations.DelayTimerCountsSteps := by
  unfold Obligations.DelayTimerCountsSteps
  refine ⟨fun n s t => dt_of_runsWithoutSettingDelay, fun x y n s u t hset hstep hrun hread => ?_⟩
  obtain ⟨i, v, hf, he, rfl⟩ := step_next.1 hstep
  cases hset.symm.trans hf
  obtain ⟨-, rfl⟩ := exec_next.1 he
  have hdt : (s.effectOf (.ldDtVx x)).timerTick.dt.toNat = (s.getV x).toNat - 1 := toNat_tickDown (s.getV x)
  refine ⟨_, step_next.2 ⟨_, _, hread, rfl, rfl⟩, ?_⟩
  rw [State.getV_timerTick, State.getV_advance, State.getV_setV_self, dt_of_runsWithoutSettingDelay hrun, hdt]
  omega

/-- Settles O57: the next fetch reads the memory the store left. -/
theorem storesAreSeenByTheNextFetch : Obligations.StoresAreSeenByTheNextFetch := by
  unfold Obligations.StoresAreSeenByTheNextFetch
  intro x s t hm hfetch hstep hpc
  obtain ⟨i, u, hf, he, rfl⟩ := step_next.1 hstep
  cases hfetch.symm.trans hf
  obtain ⟨h, rfl⟩ := exec_ldMemVx_next.1 he
  have hstored (k : Reg) (hk : k.toNat ≤ x.toNat) := State.read_storeRegs hm h hk
  have hkept : ∀ a, a < s.atI 0 ∨ s.atI x.toNat < a → (s.storeRegs x).mem.read a = s.mem.read a :=
    fun a ha => State.memOutside_storeRegs hm h a (ha.imp id fun hlt => by unfold State.atI at *; omega)
  refine ⟨_, State.fetch_ok hpc, fun k hk ha => ?_, fun k hk ha => ?_, fun ha => ?_, fun ha => ?_⟩
  · rw [toNat_wordOfBytes_div, ← ha, State.timerTick_mem, hstored k hk]
  · rw [toNat_wordOfBytes_mod, ← ha, State.timerTick_mem, hstored k hk]
  · rw [toNat_wordOfBytes_div, State.timerTick_mem, hkept _ ha]
  · rw [toNat_wordOfBytes_mod, State.timerTick_mem, hkept _ ha]

end Sys2Proof

/-! Drawing (44_display.md): `DXYN`. A draw flips the pixels under the sprite's 1 bits and its flag says whether one of them
was lit, so a second draw of the same sprite flips them back and finds lit those the first one lit. -/

namespace Sys2Proof.Machine

/-! ### Pixels under a sprite -/

section
variable {m : Memory} {i n x0 y0 : Nat}

/-- For a pixel of the screen, the two ways to say that it lies under a 1 bit. -/
theorem underSprite_iff {px py : Nat} (hx : px < 64) (hy : py < 32) :
    UnderSprite m i n x0 y0 px py ↔ ∃ r, r < n ∧ ((y0 + r) % 32 = py % 32 ∧
      ∃ c, c < 8 ∧ spriteBit (m.read (i + r)) c = true ∧ (x0 + c) % 64 = px % 64) := by
  rw [Nat.mod_eq_of_lt hx, Nat.mod_eq_of_lt hy]
  constructor
  · rintro ⟨r, c, hr, hc, hpx, hpy, hbit⟩
    exact ⟨r, hr, hpy, c, hc, hbit, hpx⟩
  · rintro ⟨r, hr, hpy, c, hc, hbit, hpx⟩
    exact ⟨r, c, hr, hc, hpx, hpy, hbit⟩

/-- Every 1 bit of the sprite has a pixel of the screen under it. -/
theorem underSprite_of_bit {r c : Nat} (hr : r < n) (hc : c < 8) (hbit : spriteBit (m.read (i + r)) c = true) :
    UnderSprite m i n x0 y0 ((x0 + c) % 64) ((y0 + r) % 32) :=
  ⟨r, c, hr, hc, rfl, rfl, hbit⟩

theorem underSprite_congr {m' : Memory} (h : ∀ r, r < n → m'.read (i + r) = m.read (i + r)) {px py : Nat} :
    UnderSprite m' i n x0 y0 px py ↔ UnderSprite m i n x0 y0 px py := by
  unfold UnderSprite
  refine exists_congr fun r => exists_congr fun c => and_congr_right fun hr => ?_
  rw [h r hr]

theorem byte_ne_zero_iff (b : Byte) : b ≠ 0 ↔ ∃ c, c < 8 ∧ spriteBit b c = true := by
  constructor
  · intro hb
    by_contra hno
    push Not at hno
    refine hb (BitVec.eq_of_getLsbD_eq fun j hj => ?_)
    have hbit := hno (7 - j) (by omega)
    have hj' : 7 - (7 - j) = j := by omega
    simpa [spriteBit, hj'] using hbit
  · rintro ⟨c, -, hbit⟩ rfl
    simp [spriteBit] at hbit

/-- Some pixel lies under a 1 bit exactly when some row of the sprite is not blank. -/
theorem exists_underSprite_iff :
    (∃ px py, px < 64 ∧ py < 32 ∧ UnderSprite m i n x0 y0 px py) ↔ ∃ r, r < n ∧ m.read (i + r) ≠ 0 := by
  simp only [byte_ne_zero_iff]
  constructor
  · rintro ⟨px, py, -, -, r, c, hr, hc, -, -, hbit⟩
    exact ⟨r, hr, c, hc, hbit⟩
  · rintro ⟨r, hr, c, hc, hbit⟩
    exact ⟨_, _, Nat.mod_lt _ (by decide), Nat.mod_lt _ (by decide), underSprite_of_bit hr hc hbit⟩

end

/-! ### What a draw leaves -/

/-- Pixel `(px, py)` lies under a 1 bit of the sprite `DXYN` draws. -/
def State.Under (s : State) (x y : Reg) (n : BitVec 4) (px py : Nat) : Prop :=
  UnderSprite s.mem (s.atI 0) n.toNat (s.getV x).toNat (s.getV y).toNat px py

section
variable {s : State} {x y : Reg} {n : BitVec 4}

theorem sprite_rows_le (n : BitVec 4) : n.toNat ≤ 32 := Nat.le_trans (Nat.le_of_lt n.isLt) (by decide)

theorem State.pixel_drawSprite {px py : Nat} (hx : px < 64) (hy : py < 32) :
    (s.drawSprite x y n).fb.pixel px py = true ↔ ¬ (s.fb.pixel px py = true ↔ s.Under x y n px py) := by
  rw [State.Under, underSprite_iff hx hy]
  exact Drawing.pixel_sprite _ _ _ _ _ _ (sprite_rows_le n) px py

/-- A draw hits when it flips a lit pixel. -/
theorem State.hit_drawing : (s.drawing x y n).hit = true ↔
    ∃ px py, px < 64 ∧ py < 32 ∧ s.fb.pixel px py = true ∧ s.Under x y n px py := by
  have hsprite := Drawing.hit_sprite ⟨s.fb, false⟩ s.mem (s.atI 0) n.toNat (s.getV x).toNat (s.getV y).toNat
    (sprite_rows_le n)
  rw [Bool.false_eq_true, false_or] at hsprite
  refine hsprite.trans ⟨?_, ?_⟩
  · rintro ⟨r, hr, c, hc, hbit, hlit⟩
    exact ⟨_, _, Nat.mod_lt _ (by decide), Nat.mod_lt _ (by decide), (Framebuffer.pixel_mod _ _ _).trans hlit,
      underSprite_of_bit hr hc hbit⟩
  · rintro ⟨px, py, -, -, hlit, r, c, hr, hc, rfl, rfl, hbit⟩
    exact ⟨r, hr, c, hc, hbit, (Framebuffer.pixel_mod _ _ _).symm.trans hlit⟩

theorem State.exists_under :
    (∃ px py, px < 64 ∧ py < 32 ∧ s.Under x y n px py) ↔ ∃ r, r < n.toNat ∧ s.mem.read (s.atI r) ≠ 0 :=
  exists_underSprite_iff

theorem State.flag_drawSprite : (s.drawSprite x y n).getV 0xF = if (s.drawing x y n).hit then 1 else 0 :=
  State.getV_setFlag _ _ 0xF

theorem State.flag_drawSprite_eq_one : (s.drawSprite x y n).getV 0xF = 1 ↔
    ∃ px py, px < 64 ∧ py < 32 ∧ s.fb.pixel px py = true ∧ s.Under x y n px py := by
  rw [State.flag_drawSprite, ← State.hit_drawing]
  cases (s.drawing x y n).hit <;> decide

theorem State.flag_drawSprite_cases : (s.drawSprite x y n).getV 0xF = 0 ∨ (s.drawSprite x y n).getV 0xF = 1 := by
  rw [State.flag_drawSprite]
  cases (s.drawing x y n).hit <;> decide

theorem State.regsExcept_drawSprite : Frame.RegsExcept [0xF] s (s.drawSprite x y n) :=
  fun _ hk => getV_setFlag_of_ne _ (List.ne_of_not_mem_cons hk)

/-! ### When a draw completes -/

theorem State.errorOf_drw :
    s.errorOf (.drw x y n) = if n.toNat = 0 then none else pastTop (s.atI (n.toNat - 1)) := by
  by_cases h : n.toNat = 0
  · simp only [State.errorOf, if_pos h]
  · have htop : s.atI (n.toNat - 1) = s.idx.toNat + n.toNat - 1 := by
      unfold State.atI
      omega
    simp only [State.errorOf, if_neg h, htop]

theorem exec_drw_next {t : State} :
    exec (.drw x y n) s = .next t ↔ (n.toNat = 0 ∨ s.atI (n.toNat - 1) ≤ 0xFFF) ∧ t = s.drawSprite x y n := by
  rw [exec_next, State.errorOf_drw]
  refine and_congr_left fun _ => ?_
  split
  · next h => simp [h]
  · next h => simp [h, pastTop_eq_none]

theorem exec_drw_fault (hn : n.toNat ≠ 0) (h : 0xFFF < s.atI (n.toNat - 1)) :
    exec (.drw x y n) s = .fault (.outOfBounds (s.atI (n.toNat - 1))) := by
  rw [exec_fault, State.errorOf_drw, if_neg hn, pastTop_eq_some]
  exact ⟨h, rfl⟩

theorem encodedAs_drw (x y : Reg) (n : BitVec 4) :
    EncodedAs (.drw x y n) (0xD000 + 0x100 * x.toNat + 0x10 * y.toNat + n.toNat) := by
  rw [Nat.add_right_comm, Nat.add_right_comm 0xD000]
  exact encodedAs_XY (op := 0xD) rfl (decode_encode (.drw x y n))

end

/-- The same sprite lies over the same pixels in two records that agree on its operands and bytes. -/
theorem State.under_congr {s u : State} {x y : Reg} {n : BitVec 4} (hidx : u.idx = s.idx) (hx : u.getV x = s.getV x)
    (hy : u.getV y = s.getV y) (hmem : ∀ r, r < n.toNat → u.mem.read (s.atI r) = s.mem.read (s.atI r)) {px py : Nat} :
    u.Under x y n px py ↔ s.Under x y n px py := by
  rw [State.Under, State.atI, hidx, hx, hy]
  exact underSprite_congr hmem

/-- Flipping twice where `p` holds flips nothing. -/
theorem flip_flip_self {a p : Prop} : ¬ (¬ (a ↔ p) ↔ p) ↔ a := by
  by_cases ha : a <;> by_cases hp : p <;> simp [ha, hp]

end Sys2Proof.Machine

namespace Sys2Proof

open Machine

/-- Settles O38: `VF` speaks of the lit pixels under 1 bits, which are those that go dark. -/
theorem drawXorsSpriteOntoPicture : Obligations.DrawXorsSpriteOntoPicture := by
  unfold Obligations.DrawXorsSpriteOntoPicture
  refine fun x y n s => ⟨encodedAs_drw x y n, fun h => ?_, exec_drw_fault⟩
  refine ⟨s.drawSprite x y n, exec_drw_next.2 ⟨h, rfl⟩, fun px py => State.pixel_drawSprite, State.flag_drawSprite_cases, ?_,
    rfl, pcSequential_advance rfl, State.regsExcept_drawSprite, fun _ => rfl, rfl, ⟨rfl, rfl⟩, ⟨rfl, rfl⟩, rfl, rfl⟩
  rw [State.flag_drawSprite_eq_one]
  refine exists_congr fun px => exists_congr fun py => and_congr_right fun hx => and_congr_right fun hy =>
    and_congr_right fun hlit => ?_
  rw [← Bool.not_eq_true, State.pixel_drawSprite hx hy, hlit]
  simp

/-- Settles O39: the second draw flips the same pixels, and where the sprite lay on dark pixels it now lies on lit ones. -/
theorem drawTwiceRestoresPicture : Obligations.DrawTwiceRestoresPicture := by
  unfold Obligations.DrawTwiceRestoresPicture
  intro x y n s t u hdraw hfb hidx hx hy hmem
  obtain ⟨hfits, rfl⟩ := exec_drw_next.1 hdraw
  have hunder {px py : Nat} : u.Under x y n px py ↔ s.Under x y n px py := State.under_congr hidx hx hy hmem
  have hfits' : n.toNat = 0 ∨ u.atI (n.toNat - 1) ≤ 0xFFF := by
    rw [State.atI, hidx]
    exact hfits
  refine ⟨u.drawSprite x y n, exec_drw_next.2 ⟨hfits', rfl⟩, Framebuffer.ext_pixel fun px py hpx hpy => ?_,
    fun hdark => ⟨State.flag_drawSprite_cases.resolve_right fun hone => ?_, ?_⟩⟩
  · rw [Bool.eq_iff_iff, State.pixel_drawSprite hpx hpy, hfb, State.pixel_drawSprite hpx hpy, hunder, flip_flip_self]
  · obtain ⟨px, py, hpx, hpy, hlit, hpix⟩ := State.flag_drawSprite_eq_one.1 hone
    rw [hdark px py hpx hpy hpix] at hlit
    cases hlit
  · have hlit {px py : Nat} (hpx : px < 64) (hpy : py < 32) (hpix : s.Under x y n px py) : u.fb.pixel px py = true := by
      rw [hfb, State.pixel_drawSprite hpx hpy, hdark px py hpx hpy hpix]
      simp [hpix]
    rw [State.flag_drawSprite_eq_one, ← State.exists_under (x := x) (y := y)]
    refine exists_congr fun px => exists_congr fun py => and_congr_right fun hpx => and_congr_right fun hpy => ?_
    rw [hunder]
    exact ⟨fun h => h.2, fun hpix => ⟨hlit hpx hpy hpix, hpix⟩⟩

end Sys2Proof
